-- ==== Sys2Proof/Word.lean ====
section
/-! DEFINITION. The one word of this hardware: the byte. Everything the block stores or sends is a byte or a part of one (spec/20_memory.md R83). -/

namespace Sys2Proof

/-- A byte; bit 0 is its least significant bit (R15). -/
abbrev Byte := BitVec 8

end Sys2Proof
end

