-- ==== Sys2Proof/Config.lean ====
section
/-! DEFINITION. What an implementation fixes (the configuration record of spec/00_scope.md R6, R10, R11), what the block
reads from outside in one tick (R12, R14, R31, R32), and the one free value of the model: the inputs of the ticks that no
stimulus lists. -/

namespace Sys2Proof

/-- The speed-indexed half of the timing profile (R6): one value of each per speed, in ticks. -/
structure SpeedBounds where
  resetMin : Nat
  resetMax : Nat
  presenceDelay : Nat
  presenceMin : Nat
  presenceMax : Nat
  slotMax : Nat
  writeZero : Nat
  readMin : Nat
  readMax : Nat
  deriving DecidableEq, Repr, Inhabited

/-- The timing profile `T` (R6): the bounds shared by both speeds, and the two speeds' own. -/
structure Profile where
  resetTimeout : Nat
  idleTimeout : Nat
  highTimeout : Nat
  settleMin : Nat
  normal : SpeedBounds
  overdrive : SpeedBounds
  deriving DecidableEq, Repr, Inhabited

/-- The memory geometry `G` (R10). -/
structure Geometry where
  memSize : Nat
  pageShift : Nat
  pageCount : Nat
  deriving DecidableEq, Repr, Inhabited

/-- The configuration record `Cfg = (T, G, ID, CNT_W)` of spec/00_scope.md section 3. Nothing in it changes while the
hardware runs. `ident` is the identity `ID[0..7]` (R50), which no rule reads. -/
structure Cfg where
  profile : Profile
  geometry : Geometry
  ident : Vector Byte 8
  cntW : Nat
  deriving DecidableEq, Repr, Inhabited

/-- The inputs of one tick: the block's reset (R31), the master's pull on the line (R13, R14), the host port (R32). -/
structure TickIn where
  rst : Bool
  pull : Bool
  hValid : Bool
  hOp : BitVec 4
  hA : Byte
  hB : Byte
  deriving DecidableEq, Repr, Inhabited

namespace Config

/-- The fixture profile `P_TINY` (R19). -/
def pTiny : Profile where
  resetTimeout := 30
  idleTimeout := 40
  highTimeout := 10
  settleMin := 2
  normal := ⟨12, 20, 2, 4, 8, 5, 3, 2, 4⟩
  overdrive := ⟨6, 9, 1, 2, 4, 3, 1, 1, 2⟩

/-- The reference geometry `G_REF = (44, 6, 1)` (R10). -/
def gRef : Geometry := ⟨44, 6, 1⟩

/-- DESIGN CHOICE, unsafe (log entry 3): the configuration that `State.reset` carries. The spec leaves every parameter
open; these are its reference values (R10, R11) and its fixture (R19). The identity has the family code 0x09 first and the
CRC-8 of the first seven bytes last (R50). -/
def reference : Cfg where
  profile := pTiny
  geometry := gRef
  ident := #v[0x09, 0x01, 0x02, 0x03, 0x04, 0x05, 0x06, 0x4C]
  cntW := 16

/-- FREE VALUE (log entry 2): the inputs of tick `t` where the state lists none. The master, the host and `rst` are
environment and choose freely at every tick (R13). -/
opaque envInput : Nat → TickIn

end Config

end Sys2Proof
end

