-- ==== Sys2Proof/Syntax.lean ====
section
/-! DEFINITION. The operations that have an encoding, one constructor per row of spec/opcode_table.json (spec/30_encoding.md
R132), and the three formats the encodings come in. -/

namespace Sys2Proof

/-- The three formats of the opcode table (R132). -/
inductive Format where
  /-- One bus-layer command byte, received in `RX_CMD`. -/
  | bus8
  /-- The three bytes the device receives: command, TA1, TA2, in line order. -/
  | dev24
  /-- The host port's sample `{h_b, h_a, h_op}`. -/
  | host20
  deriving DecidableEq, Repr

/-- The operations. Operand fields that the spec marks "-" (ignored, R128) are no arguments. -/
inductive Instr where
  /-- Bus-layer byte 0xCC (R125, R237). -/
  | skipRom
  /-- Every other bus-layer byte (R125, R238). -/
  | busOther (cmd : Byte)
  /-- Device command 0xF0 with its two address bytes (R126, R277). -/
  | readMemory (ta1 ta2 : Byte)
  /-- Every other device command with its two address bytes (R126, R281). -/
  | devOther (cmd ta1 ta2 : Byte)
  /-- Host code 0 (R312). -/
  | nop
  /-- Host code 1 (R313). -/
  | poll
  /-- Host code 2 (R314). -/
  | clearError
  /-- Host code 3 (R315). -/
  | attach
  /-- Host code 4 (R316). -/
  | detach
  /-- Host code 5; bit 0 of `a` is the new `od` (R317). -/
  | setOd (a : Byte)
  /-- Host code 6; index and value (R318). -/
  | memWrite (a b : Byte)
  /-- Host code 7; index (R319). -/
  | memRead (a : Byte)
  /-- Host code 8; page (R320). -/
  | setPageUsed (a : Byte)
  /-- Host code 9; source page and destination page (R321). -/
  | setPageRedir (a b : Byte)
  /-- Host code 10; page (R322). -/
  | getPageRedir (a : Byte)
  /-- Host code 11 (R323). -/
  | clearStatus
  /-- Host code 12; index (R324). -/
  | statusRead (a : Byte)
  /-- Host code 13; bus address (R325). -/
  | translate (a : Byte)
  /-- Host code 14, reserved (R326). -/
  | hostRsvd14
  /-- Host code 15, reserved (R326). -/
  | hostRsvd15
  deriving DecidableEq, Repr

/-- The format an operation is encoded in (R132). -/
def Instr.format : Instr → Format
  | .skipRom => .bus8
  | .busOther _ => .bus8
  | .readMemory _ _ => .dev24
  | .devOther _ _ _ => .dev24
  | .nop => .host20
  | .poll => .host20
  | .clearError => .host20
  | .attach => .host20
  | .detach => .host20
  | .setOd _ => .host20
  | .memWrite _ _ => .host20
  | .memRead _ => .host20
  | .setPageUsed _ => .host20
  | .setPageRedir _ _ => .host20
  | .getPageRedir _ => .host20
  | .clearStatus => .host20
  | .statusRead _ => .host20
  | .translate _ => .host20
  | .hostRsvd14 => .host20
  | .hostRsvd15 => .host20

end Sys2Proof
end

