-- ==== Sys2Proof/WellFormed.lean ====
section
/-! DEFINITION. Which terms of `Instr` stand for an encoding: the catch-all rows of the opcode table stand for the OTHER bytes
only (`SKIP_ROM` and `READ_MEMORY` have priority, spec/30_encoding.md R132). Every other operand takes every value. -/

namespace Sys2Proof

/-- A term is well-formed when some encoding reads as it (R125, R126, R132). -/
def Instr.wf : Instr → Bool
  | .skipRom => true
  | .busOther cmd => cmd != 0xCC
  | .readMemory _ _ => true
  | .devOther cmd _ _ => cmd != 0xF0
  | .nop => true
  | .poll => true
  | .clearError => true
  | .attach => true
  | .detach => true
  | .setOd _ => true
  | .memWrite _ _ => true
  | .memRead _ => true
  | .setPageUsed _ => true
  | .setPageRedir _ _ => true
  | .getPageRedir _ => true
  | .clearStatus => true
  | .statusRead _ => true
  | .translate _ => true
  | .hostRsvd14 => true
  | .hostRsvd15 => true

end Sys2Proof
end

