-- ==== Sys2Proof/Decode.lean ====
section
/-! DEFINITION. Decoding and encoding (spec/30_encoding.md sections 3 to 5 and 7). The block has three decoders, one per place
a code arrives at: the bus-layer byte (R125), the device's three bytes (R126), the host port (R128). -/

namespace Sys2Proof

/-- Why a byte string is no encoding of a format; every string of the right length decodes, but for the padding of a
`host20` value. Safe: nothing is run. -/
inductive DecodeError where
  /-- The number of bytes is not the format's. -/
  | wrongLength
  /-- Bits 23:20 of the three bytes that carry a `host20` value are not zero. -/
  | hostPadding
  deriving DecidableEq, Repr

/-- The bus-layer byte, all 8 bits compared (R125). -/
def decodeBus (c : Byte) : Instr :=
  if c = 0xCC then .skipRom else .busOther c

/-- The device's command and address bytes; only the command byte is compared (R126, R132). -/
def decodeDev (cmd ta1 ta2 : Byte) : Instr :=
  if cmd = 0xF0 then .readMemory ta1 ta2 else .devOther cmd ta1 ta2

/-- The host port's operation (R128); the last arm is code 15. -/
def decodeHost (op : BitVec 4) (a b : Byte) : Instr :=
  match op.toNat with
  | 0 => .nop
  | 1 => .poll
  | 2 => .clearError
  | 3 => .attach
  | 4 => .detach
  | 5 => .setOd a
  | 6 => .memWrite a b
  | 7 => .memRead a
  | 8 => .setPageUsed a
  | 9 => .setPageRedir a b
  | 10 => .getPageRedir a
  | 11 => .clearStatus
  | 12 => .statusRead a
  | 13 => .translate a
  | 14 => .hostRsvd14
  | _ => .hostRsvd15

/-- A value as its `n` bytes, the lowest first: line order for `dev24` (R132). -/
def bytesOf : Nat → Nat → List Byte
  | 0, _ => []
  | n + 1, w => BitVec.ofNat 8 w :: bytesOf n (w / 256)

/-- The value of a byte string, the first byte lowest. -/
def valueOf : List Byte → Nat
  | [] => 0
  | b :: bs => b.toNat + 256 * valueOf bs

/-- Decode the bytes of one operation of a given format: total, every refusal named. A `host20` value is 20 bits in three
bytes: `h_op` = bits 3:0, `h_a` = bits 11:4, `h_b` = bits 19:12 (R132). -/
def decode (f : Format) (bytes : List Byte) : Except DecodeError Instr :=
  match f, bytes with
  | .bus8, [c] => .ok (decodeBus c)
  | .dev24, [cmd, ta1, ta2] => .ok (decodeDev cmd ta1 ta2)
  | .host20, [b0, b1, b2] =>
    let w := valueOf [b0, b1, b2]
    if w < 2 ^ 20 then
      .ok (decodeHost (BitVec.ofNat 4 w) (BitVec.ofNat 8 (w / 2 ^ 4)) (BitVec.ofNat 8 (w / 2 ^ 12)))
    else .error .hostPadding
  | _, _ => .error .wrongLength

/-- The bytes of a `host20` value. -/
def hostBytes (op : Nat) (a b : Byte) : List Byte :=
  bytesOf 3 (op + a.toNat * 2 ^ 4 + b.toNat * 2 ^ 12)

/-- The encoding of a well-formed operation (R125, R126, R128, R132); ignored operand bits are 0. -/
def encode : Instr → List Byte
  | .skipRom => [0xCC]
  | .busOther cmd => [cmd]
  | .readMemory ta1 ta2 => [0xF0, ta1, ta2]
  | .devOther cmd ta1 ta2 => [cmd, ta1, ta2]
  | .nop => hostBytes 0 0 0
  | .poll => hostBytes 1 0 0
  | .clearError => hostBytes 2 0 0
  | .attach => hostBytes 3 0 0
  | .detach => hostBytes 4 0 0
  | .setOd a => hostBytes 5 a 0
  | .memWrite a b => hostBytes 6 a b
  | .memRead a => hostBytes 7 a 0
  | .setPageUsed a => hostBytes 8 a 0
  | .setPageRedir a b => hostBytes 9 a b
  | .getPageRedir a => hostBytes 10 a 0
  | .clearStatus => hostBytes 11 0 0
  | .statusRead a => hostBytes 12 a 0
  | .translate a => hostBytes 13 a 0
  | .hostRsvd14 => hostBytes 14 0 0
  | .hostRsvd15 => hostBytes 15 0 0

/-- How many bytes carry a value of a format. -/
def Format.numBytes : Format → Nat
  | .bus8 => 1
  | .dev24 => 3
  | .host20 => 3

/-- DESIGN CHOICE (log entry 9). A word of the opcode table does not say which of the three formats it belongs to; on the
hardware the place it arrives at says so. For a word alone: a word whose low byte is a fully fixed command byte is that
command's; else a value that fits the host port's fields is the host port's; else it is the other row of its width. -/
def tableFormat (nbits w : Nat) : Option Format :=
  if 2 ^ nbits ≤ w then none
  else if nbits = 8 then
    some (if w = 0xCC then .bus8 else if w = 0xF0 then .dev24 else if w < 16 then .host20 else .bus8)
  else if nbits = 20 then some .host20
  else if nbits = 24 then
    some (if w % 256 = 0xF0 then .dev24 else if w < 2 ^ 20 then .host20 else .dev24)
  else none

/-- The operation the decoder reads from a word of the opcode table; bits above `nbits` are 0. -/
def decodeTableWord (nbits w : Nat) : Option Instr :=
  match tableFormat nbits w with
  | none => none
  | some f => (decode f (bytesOf f.numBytes w)).toOption

end Sys2Proof
end

