-- ==== Sys2Proof/Machine/State.lean ====
section
/-! DEFINITION. The state record `S` of spec/10_state.md R30, its parts' types, the reset state (R57), and the reasons a step
can stop. -/

namespace Sys2Proof.Machine

/-- The sequencer's 13 phases (R35). -/
inductive Phase where
  | idle
  | waitReset
  | confirmReset
  | presDelay
  | presDrive
  | presRelease
  | rxCmd
  | dRxCmd
  | dRxTa1
  | dRxTa2
  | dTxCrc1
  | dTxData
  | dTxCrc2
  deriving DecidableEq, Repr

/-- The bit engine's five states (R36). -/
inductive BitState where
  | waitHigh
  | waitFall
  | sample
  | drive
  | hold
  deriving DecidableEq, Repr

/-- The closed set of protocol errors (R129, R351). `resetInProgress` is never stored (R353) and `incorrectSlaveUsage` is
never raised (R359); both are kept so that the type is the spec's set. -/
inductive ErrCode where
  | noError
  | resetInProgress
  | veryLongReset
  | presenceLowOnLine
  | awaitTimeslotTimeoutHigh
  | firstBitOfByteTimeout
  | incorrectOnewireCmd
  | incorrectSlaveUsage
  deriving DecidableEq, Repr

/-- The host port's outputs of one tick (R32). -/
structure HostOut where
  ack : Bool
  ok : Bool
  rdata : Byte
  deriving DecidableEq, Repr

/-- The outputs in a tick without an accepted operation (R310). -/
def HostOut.none : HostOut := ⟨false, false, 0x00⟩

/-- The data memory's contents as (address, byte) pairs in canonical form: addresses strictly rising, no byte equal to what
an unlisted address reads as. -/
abbrev Memory := List Host.Cell

/-- The whole state: the configuration (a parameter of `Step` in the spec), the record `S` of R30 field by field, and the
model's own fields `inputs`, `now`, `port` (log entries 1, 2, 4). -/
structure State where
  /-- `Cfg` (R6, R10, R11, R50): never written. -/
  cfg : Cfg
  phase : Phase
  bt : BitState
  cnt : Nat
  hi : Nat
  low : Nat
  oe : Bool
  err : ErrCode
  errCmd : Byte
  od : Bool
  attached : Bool
  dispatched : Bool
  byte : Byte
  bit : BitVec 3
  dcmd : Byte
  ta1 : Byte
  ta2 : Byte
  addr : BitVec 9
  crc8 : Byte
  status : Vector Byte 8
  mem : Memory
  /-- The model's own: the inputs of the ticks to come, the next tick's first. -/
  inputs : List TickIn
  /-- The model's own: the number of the tick to come, the `t` of R12. -/
  now : Nat
  /-- The model's own record of `h_ack`, `h_ok`, `h_rdata` of the tick just executed. -/
  port : HostOut
  deriving DecidableEq, Repr

/-- The status block after reset and after CLEAR_STATUS (R47, R57, R286). -/
def statusInit : Vector Byte 8 := #v[0xFF, 0xFF, 0xFF, 0xFF, 0xFF, 0xFF, 0xFF, 0x00]

/-- The reset state (R57) of a block with a given configuration; every byte of `Mem` reads 0xFF. -/
@[simps] def State.resetOf (c : Cfg) : State where
  cfg := c
  phase := .idle
  bt := .waitHigh
  cnt := 0
  hi := 0
  low := 0
  oe := false
  err := .noError
  errCmd := 0x00
  od := false
  attached := false
  dispatched := false
  byte := 0x00
  bit := 0
  dcmd := 0x00
  ta1 := 0x00
  ta2 := 0x00
  addr := 0
  crc8 := 0x00
  status := statusInit
  mem := []
  inputs := []
  now := 0
  port := HostOut.none

/-- The machine right after reset (R57, R391), with the reference configuration (DESIGN CHOICE, log entry 3). -/
def State.reset : State := State.resetOf Config.reference

/-- Nothing in this hardware stops the machine (R350: every error ends the poll cycle and is recorded in `err`), so there is
no fault: the protocol errors are next states. -/
inductive Fault where
  deriving DecidableEq, Repr

/-- Why a step has no meaning. -/
inductive Refusal where
  /-- An operation whose meaning has not been written; raised by `exec` alone. Safe: nothing is claimed of it. -/
  | notModelled (mnemonic : String)
  /-- The timing profile breaks R7; raised by `step`. Safe: the spec refuses such a profile, it has no meaning (R7, U13). -/
  | illFormedProfile
  /-- The geometry breaks R10; raised by `step`. Safe: the spec refuses such a geometry (R10, U14). -/
  | illFormedGeometry
  deriving DecidableEq, Repr

end Sys2Proof.Machine
end

