-- ==== Sys2Proof/Machine/Ops.lean ====
section
/-! DEFINITION. The shared operations: the data memory and the status block, the inputs of a tick, the three wait primitives,
the entry of a byte phase, the ends of a poll cycle with the abort sequence (this hardware's taking of an exception), and the
host port's answers. -/

namespace Sys2Proof.Machine

/-! ### Data memory (spec/20_memory.md) -/

/-- What an unlisted address of `Mem` reads as: the reset value of every byte (R57). -/
def Memory.blank : Byte := 0xFF

/-- The byte at an address. -/
def Memory.read : Memory → Nat → Byte
  | [], _ => Memory.blank
  | (a, v) :: m, i => if i = a then v else Memory.read m i

/-- Put a byte at an address, keeping the canonical form. -/
def Memory.write : Memory → Nat → Byte → Memory
  | [], i, v => if v = Memory.blank then [] else [(i, v)]
  | (a, w) :: m, i, v =>
    if i < a then (if v = Memory.blank then (a, w) :: m else (i, v) :: (a, w) :: m)
    else if i = a then (if v = Memory.blank then m else (i, v) :: m)
    else (a, w) :: Memory.write m i v

/-- The canonical form from an address on: addresses rise strictly and no entry is blank. -/
def Memory.wfFrom : Nat → Memory → Bool
  | _, [] => true
  | lo, (a, v) :: m => decide (lo ≤ a) && (v != Memory.blank) && Memory.wfFrom (a + 1) m

/-- The canonical form. -/
def Memory.wf (m : Memory) : Bool := Memory.wfFrom 0 m

/-- Every listed address is below a bound. -/
def Memory.below (n : Nat) (m : Memory) : Bool := m.all (fun c => decide (c.1 < n))

/-- `MemRead(i, 1)` (R86): never faults; at or above `MEM_SIZE` it is 0xFF. -/
def memRead (s : State) (i : Nat) : Byte :=
  if i < s.cfg.geometry.memSize then Memory.read s.mem i else 0xFF

/-- `MemWrite(i, 1, v)` (R87): at or above `MEM_SIZE` nothing changes. -/
def memWrite (s : State) (i : Nat) (v : Byte) : State :=
  if i < s.cfg.geometry.memSize then { s with mem := Memory.write s.mem i v } else s

/-! ### Status block (R47 to R49, R88) -/

/-- `status[i]`; there is none for `i > 7` (no rule reads one there under a legal geometry, log entry 11). -/
def statusGet (s : State) (i : Nat) : Byte :=
  if h : i < 8 then s.status[i] else 0xFF

/-- `status[i] <- v`. -/
@[simps] def statusSet (s : State) (i : Nat) (v : Byte) : State :=
  { s with status := s.status.setIfInBounds i v }

/-! ### Bits (R15) -/

/-- `v[i] <- b`, the other bits unchanged. -/
def setBit (v : Byte) (i : Nat) (b : Bool) : Byte :=
  if b then v ||| (1#8 <<< i) else v &&& ~~~(1#8 <<< i)

/-! ### The inputs of a tick (R12 to R14, R32) -/

/-- The inputs of the tick to come: the next listed ones, else the free ones of this tick (log entries 1, 2). -/
def nextInput (s : State) : TickIn :=
  match s.inputs with
  | [] => Config.envInput s.now
  | u :: _ => u

/-- The state as the tick's transition sees it: the tick's inputs are taken, and the host port answers nothing unless an
operation is accepted (R310). -/
@[simps] def afterInput (s : State) : State :=
  { s with inputs := s.inputs.tail, now := s.now + 1, port := HostOut.none }

/-- `ow_in(t) = NOT(m_pull(t) OR oe(t))` (R14). -/
def lineLevel (s : State) : Bool := !((nextInput s).pull || s.oe)

/-- The next state at a tick with `rst = 1` (R31, R390): the reset state. The configuration is no state, and the stimulus and
the tick number are the environment's (log entry 5). -/
@[simps] def resetTick (s : State) : State :=
  { State.resetOf s.cfg with inputs := s.inputs, now := s.now }

/-! ### Counters and waits (spec/40_bit_transport.md R161 to R163) -/

/-- A counter of `CNT_W` bits holds a number modulo `2^CNT_W` (R11, R43, R45; log entry 6). -/
def counterValue (c : Cfg) (n : Nat) : Nat := n % 2 ^ c.cntW

/-- `cnt <- cnt - 1` (R161). -/
@[simps] def countDown (s : State) : State :=
  { s with cnt := counterValue s.cfg (s.cnt + (2 ^ s.cfg.cntW - 1)) }

/-- What a tick of a wait does: it ends by the awaited sample, it ends because its ticks are used up, or it goes on. -/
inductive Wait where
  | seen (s : State)
  | timeout (s : State)
  | stay (s : State)
  deriving DecidableEq, Repr

/-- One tick of `DELAY` and of `DRIVE` (R162, R163): the sample is not looked at; `timeout` is the exit. -/
def delayTick (s : State) : Wait :=
  if (countDown s).cnt = 0 then .timeout (countDown s) else .stay (countDown s)

/-- One tick of `WAITWHILE(level, N)` with the sample `x` (R161): the sample is tested before the budget. -/
def waitWhile (level x : Bool) (s : State) : Wait :=
  if x = level then delayTick s else .seen s

/-- What a tick of the sequencer comes to: a next state, or an operation to run whose code has just been completed. -/
inductive Action where
  | move (s : State)
  | run (i : Instr) (s : State)
  deriving DecidableEq, Repr

/-! ### Speed-indexed profile values (R16) -/

/-- `P(name)` is `name[od]`: the bounds of the speed in force. -/
def bounds (s : State) : SpeedBounds :=
  if s.od then s.cfg.profile.overdrive else s.cfg.profile.normal

/-- Entry of a byte phase with the byte to send, 0 for a receive phase (R164). -/
@[simps] def startByte (ph : Phase) (v : Byte) (s : State) : State :=
  { s with phase := ph, bit := 0, byte := v, bt := .waitHigh, cnt := (bounds s).slotMax }

/-! ### The ends of a poll cycle -/

/-- What every end of a cycle writes (R227, R243, R362). -/
@[simps] def endCycle (s : State) : State :=
  { s with phase := .idle, bt := .waitHigh, cnt := 0, bit := 0, oe := false }

/-- TAKING AN EXCEPTION: the abort sequence `raise E` (R362). The error is recorded, the cycle is over; no state is saved and
there is no vector. There is no return from it (R364): the host reads `err` and polls again. -/
@[simps] def raise (e : ErrCode) (s : State) : State :=
  { endCycle s with err := e, dispatched := false }

/-- The normal end of a cycle (R243). -/
@[simps] def finish (s : State) : State :=
  { endCycle s with dispatched := true }

/-- The idle timeout (R227). -/
@[simps] def idleTimeout (s : State) : State :=
  { endCycle s with dispatched := false }

/-- The condition RESET_IN_PROGRESS (R240, R353): the pulse measurement goes on from a credited count, no error is recorded. -/
@[simps] def resetInProgress (s : State) : State :=
  { s with phase := .confirmReset, low := (bounds s).slotMax + (bounds s).readMax, bt := .waitHigh, bit := 0 }

/-! ### The host port (spec/44_host_operations.md R310, R311) -/

/-- An accepted operation's answer. -/
@[simps] def answer (ok : Bool) (rdata : Byte) (s : State) : State :=
  { s with port := ⟨true, ok, rdata⟩ }

/-- An operation is accepted if and only if `phase = IDLE`; otherwise it is turned away and changes nothing (R310, R311). -/
def accepted (s : State) (effect : State) : State :=
  if s.phase = .idle then effect else { s with port := HostOut.none }

end Sys2Proof.Machine
end

