-- ==== Sys2Proof/Machine/BusCommands.lean ====
section
/-! DEFINITION. The bus-layer commands' meanings (spec/42_bus_state_machine.md R236 to R238): the `byte_done` of `RX_CMD`, run in
the transition that ends the command byte's last slot. -/

namespace Sys2Proof.Machine

/-- SKIP_ROM (R237): control passes to the attached device's `duty`. -/
def execSkipRom (s : State) : Host.Outcome State Fault Refusal :=
  .next (startByte .dRxCmd 0x00 { s with crc8 := 0x00 })

/-- Every other bus-layer byte (R238): recorded with the error, nothing is sent. -/
def execBusOther (cmd : Byte) (s : State) : Host.Outcome State Fault Refusal :=
  .next (raise .incorrectOnewireCmd { s with errCmd := cmd })

end Sys2Proof.Machine
end

