-- ==== Sys2Proof/Machine/Crc.lean ====
section
/-! DEFINITION. The two checksums (spec/41_frame_codec_crc.md). CRC-8 is the device's; the CRC-16 fold is a capability that no
phase of this core uses (R55, R194, R195), so its accumulator is an argument and no state. -/

namespace Sys2Proof.Machine

/-- One bit of the CRC-8 (R199). -/
def crc8Bit (c : Byte) (b : Bool) : Byte :=
  if c.getLsbD 0 ^^ b then (c >>> 1) ^^^ 0x8C else c >>> 1

/-- `crc8_upd(c, v)`: the bits of `v`, bit 0 first (R199). -/
def crc8Upd (c v : Byte) : Byte :=
  (List.range 8).foldl (fun acc i => crc8Bit acc (v.getLsbD i)) c

/-- `crc8(buf, seed)` (R199). -/
def crc8Buf (buf : List Byte) (seed : Byte) : Byte := buf.foldl crc8Upd seed

/-- `crc16_bit(acc, b)` (R197). -/
def crc16Bit (acc : BitVec 16) (b : Bool) : BitVec 16 :=
  if acc.getLsbD 0 ^^ b then (acc >>> 1) ^^^ 0xA001 else acc >>> 1

/-- `crc16_byte(acc, v)`: the bits of `v`, bit 0 first (R198). -/
def crc16Byte (acc : BitVec 16) (v : Byte) : BitVec 16 :=
  (List.range 8).foldl (fun a i => crc16Bit a (v.getLsbD i)) acc

/-- `crc16(buf, acc)` (R198): what `send` and `recv` of a buffer leave in a live accumulator (R194, R195). -/
def crc16Buf (buf : List Byte) (acc : BitVec 16) : BitVec 16 := buf.foldl crc16Byte acc

/-- The slots a byte is sent as, bit 0 first (R121, R192). -/
def slotsOf (v : Byte) : List Bool := (List.range 8).map (fun i => v.getLsbD i)

/-- The slots a buffer is sent as: its bytes in index order (R193). -/
def slotsOfBuf (buf : List Byte) : List Bool := buf.flatMap slotsOf

/-- The fold of a stream of slots into a live CRC-16 accumulator, one bit at a time, sender and receiver alike (R194, R195). -/
def crc16Slots (slots : List Bool) (acc : BitVec 16) : BitVec 16 := slots.foldl crc16Bit acc

end Sys2Proof.Machine
end

