-- ==== Sys2Proof/Machine/Operands.lean ====
section
/-! DEFINITION. What the operands select: pages, redirection bytes, translated addresses (spec/20_memory.md section 4,
spec/43_eeprom_device.md section 3). Page arguments and addresses are 8-bit naturals. -/

namespace Sys2Proof.Machine

/-- `PAGE_MASK` (R10). -/
def pageMask (g : Geometry) : Nat := 2 ^ g.pageShift - 1

/-- The address's page (R90). -/
def pageOf (g : Geometry) (a : Nat) : Nat := a >>> g.pageShift

/-- The page-relative offset (R90). -/
def offsetOf (g : Geometry) (a : Nat) : Nat := a &&& pageMask g

/-- A valid page index (spec/43_eeprom_device.md section 3). -/
def validPage (s : State) (p : Byte) : Bool := decide (p.toNat < s.cfg.geometry.pageCount)

/-- `translate(a)`, a natural number, not truncated, one level deep (R90, R92). -/
def translateAddr (s : State) (a : Nat) : Nat :=
  let p := pageOf s.cfg.geometry a
  if p > 3 then a
  else
    let r := statusGet s (1 + p)
    if r = 0xFF then a
    else offsetOf s.cfg.geometry a ||| ((~~~r).toNat <<< s.cfg.geometry.pageShift)

/-- `setPageUsed(page)` (R283): out-of-range pages are ignored. -/
def setPageUsedOp (page : Byte) (s : State) : State :=
  if validPage s page then statusSet s 0 (statusGet s 0 &&& ~~~(1#8 <<< (page.toNat + 4))) else s

/-- `setPageRedirection(source, destination)`'s result: both indices are valid (R284). -/
def redirectionOk (src dst : Byte) (s : State) : Bool := validPage s src && validPage s dst

/-- `setPageRedirection(source, destination)`'s effect (R284). -/
def setPageRedirectionOp (src dst : Byte) (s : State) : State :=
  if redirectionOk src dst s then statusSet s (1 + src.toNat) (if src = dst then 0xFF else ~~~dst) else s

/-- `getPageRedirection(page)` (R285). -/
def getPageRedirectionOp (page : Byte) (s : State) : Byte :=
  if validPage s page then ~~~(statusGet s (1 + page.toNat)) else 0x00

/-- `clearStatus()` (R286). -/
@[simps] def clearStatusOp (s : State) : State := { s with status := statusInit }

end Sys2Proof.Machine
end

