-- ==== Sys2Proof/Machine/DeviceCommands.lean ====
section
/-! DEFINITION. The device (spec/43_eeprom_device.md): its two commands' meanings, which are the `byte_done` of `D_RX_TA2` (R274),
and the `byte_done` of the other device phases, which receive a command's first bytes and send its answer. -/

namespace Sys2Proof.Machine

/-- The command with both address bytes is in (R274): the last byte is folded into the CRC. The command byte and the first
address byte are what R272 and R273 have stored already; storing them again changes nothing in a run (log entry 8). -/
@[simps] def latchCommand (cmd ta1 ta2 : Byte) (s : State) : State :=
  { s with dcmd := cmd, ta1 := ta1, ta2 := ta2, crc8 := crc8Upd s.crc8 ta2 }

/-- READ_MEMORY (R274 to R277): a non-zero high address byte ends the cycle in silence; otherwise the answer starts with the
CRC of command and address. The rest of the answer is sent by `sentCommandCrc`, `sentData`, `sentDataCrc`. -/
def execReadMemory (ta1 ta2 : Byte) (s : State) : Host.Outcome State Fault Refusal :=
  .next (if ta2 = 0x00 then
      startByte .dTxCrc1 (crc8Upd s.crc8 ta2) (latchCommand 0xF0 ta1 ta2 s)
    else finish (latchCommand 0xF0 ta1 ta2 s))

/-- Every other device command (R281): no response, no error, the cycle ends normally. -/
def execDevOther (cmd ta1 ta2 : Byte) (s : State) : Host.Outcome State Fault Refusal :=
  .next (finish (latchCommand cmd ta1 ta2 s))

/-- `byte_done` of `D_RX_CMD` (R272). -/
def receivedCommand (s : State) : State :=
  startByte .dRxTa1 0x00 { s with dcmd := s.byte, crc8 := crc8Upd s.crc8 s.byte }

/-- `byte_done` of `D_RX_TA1` (R273). -/
def receivedTa1 (s : State) : State :=
  startByte .dRxTa2 0x00 { s with ta1 := s.byte, crc8 := crc8Upd s.crc8 s.byte }

/-- `byte_done` of `D_TX_CRC1` (R277): the CRC is reset and the first data byte is fetched through the redirection table, or,
past the end of memory, the CRC of no data is sent. -/
def sentCommandCrc (s : State) : State :=
  if s.ta1.toNat < s.cfg.geometry.memSize then
    startByte .dTxData (memRead s (translateAddr s s.ta1.toNat)) { s with crc8 := 0x00, addr := s.ta1.zeroExtend 9 }
  else startByte .dTxCrc2 0x00 { s with crc8 := 0x00, addr := s.ta1.zeroExtend 9 }

/-- `byte_done` of `D_TX_DATA` (R278): the byte sent is folded in; the next one follows, or, at the end of memory, the CRC. -/
def sentData (s : State) : State :=
  if (s.addr + 1).toNat < s.cfg.geometry.memSize then
    startByte .dTxData (memRead s (translateAddr s (s.addr + 1).toNat))
      { s with crc8 := crc8Upd s.crc8 s.byte, addr := s.addr + 1 }
  else
    startByte .dTxCrc2 (crc8Upd s.crc8 s.byte) { s with crc8 := crc8Upd s.crc8 s.byte, addr := s.addr + 1 }

/-- `byte_done` of `D_TX_CRC2` (R279): the device's `duty` has run to its end. -/
def sentDataCrc (s : State) : State := finish s

end Sys2Proof.Machine
end

