-- ==== Sys2Proof/Machine/HostOps.lean ====
section
/-! DEFINITION. The host operations' meanings (spec/44_host_operations.md). Each executes completely in one tick if it is
accepted, and its results stand in `port` (R310, R311). -/

namespace Sys2Proof.Machine

/-- NOP (R312). -/
def execNop (s : State) : Host.Outcome State Fault Refusal :=
  .next (accepted s (answer true 0x00 s))

/-- POLL (R313): the error and the result flag are cleared; a cycle starts if a device is attached. -/
def execPoll (s : State) : Host.Outcome State Fault Refusal :=
  .next (accepted s
    (if s.attached then
      answer true 0x00 { s with
        err := .noError, dispatched := false, phase := .waitReset, hi := 0, cnt := s.cfg.profile.idleTimeout }
    else answer false 0x00 { s with err := .noError, dispatched := false }))

/-- CLEAR_ERROR (R314). -/
def execClearError (s : State) : Host.Outcome State Fault Refusal :=
  .next (accepted s (answer true 0x00 { s with err := .noError }))

/-- ATTACH (R315): fails when the one slot is taken. -/
def execAttach (s : State) : Host.Outcome State Fault Refusal :=
  .next (accepted s (if s.attached then answer false 0x00 s else answer true 0x00 { s with attached := true }))

/-- DETACH (R316): fails when no device is attached. -/
def execDetach (s : State) : Host.Outcome State Fault Refusal :=
  .next (accepted s (if s.attached then answer true 0x00 { s with attached := false } else answer false 0x00 s))

/-- SET_OD (R317): only bit 0 of the operand counts. -/
def execSetOd (a : Byte) (s : State) : Host.Outcome State Fault Refusal :=
  .next (accepted s (answer true 0x00 { s with od := a.getLsbD 0 }))

/-- MEM_WRITE (R318): direct index, not translated, not gated by the protection bits. -/
def execMemWrite (a b : Byte) (s : State) : Host.Outcome State Fault Refusal :=
  .next (accepted s (answer (decide (a.toNat < s.cfg.geometry.memSize)) 0x00 (memWrite s a.toNat b)))

/-- MEM_READ (R319): direct index; 0xFF and failure past the end. -/
def execMemRead (a : Byte) (s : State) : Host.Outcome State Fault Refusal :=
  .next (accepted s (answer (decide (a.toNat < s.cfg.geometry.memSize)) (memRead s a.toNat) s))

/-- SET_PAGE_USED (R320): success is reported for every page. -/
def execSetPageUsed (a : Byte) (s : State) : Host.Outcome State Fault Refusal :=
  .next (accepted s (answer true 0x00 (setPageUsedOp a s)))

/-- SET_PAGE_REDIR (R321). -/
def execSetPageRedir (a b : Byte) (s : State) : Host.Outcome State Fault Refusal :=
  .next (accepted s (answer (redirectionOk a b s) 0x00 (setPageRedirectionOp a b s)))

/-- GET_PAGE_REDIR (R322). -/
def execGetPageRedir (a : Byte) (s : State) : Host.Outcome State Fault Refusal :=
  .next (accepted s (answer true (getPageRedirectionOp a s) s))

/-- CLEAR_STATUS (R323). -/
def execClearStatus (s : State) : Host.Outcome State Fault Refusal :=
  .next (accepted s (answer true 0x00 (clearStatusOp s)))

/-- STATUS_READ (R324). -/
def execStatusRead (a : Byte) (s : State) : Host.Outcome State Fault Refusal :=
  .next (accepted s (if a.toNat ≤ 7 then answer true (statusGet s a.toNat) s else answer false 0x00 s))

/-- TRANSLATE (R325): the translated address modulo 256. -/
def execTranslate (a : Byte) (s : State) : Host.Outcome State Fault Refusal :=
  .next (accepted s (answer true (BitVec.ofNat 8 (translateAddr s a.toNat)) s))

/-- Reserved code 14 (R326): accepted, fails, no effect. -/
def execHostRsvd14 (s : State) : Host.Outcome State Fault Refusal :=
  .next (accepted s (answer false 0x00 s))

/-- Reserved code 15 (R326): accepted, fails, no effect. -/
def execHostRsvd15 (s : State) : Host.Outcome State Fault Refusal :=
  .next (accepted s (answer false 0x00 s))

end Sys2Proof.Machine
end

