-- ==== Sys2Proof/Machine/Dispatch.lean ====
section
/-! DEFINITION. One arm per operation. -/

namespace Sys2Proof.Machine

def exec (i : Instr) (s : State) : Host.Outcome State Fault Refusal :=
  match i with
  | .skipRom => Sys2Proof.Machine.execSkipRom s
  | .busOther cmd => Sys2Proof.Machine.execBusOther cmd s
  | .readMemory ta1 ta2 => Sys2Proof.Machine.execReadMemory ta1 ta2 s
  | .devOther cmd ta1 ta2 => Sys2Proof.Machine.execDevOther cmd ta1 ta2 s
  | .nop => Sys2Proof.Machine.execNop s
  | .poll => Sys2Proof.Machine.execPoll s
  | .clearError => Sys2Proof.Machine.execClearError s
  | .attach => Sys2Proof.Machine.execAttach s
  | .detach => Sys2Proof.Machine.execDetach s
  | .setOd a => Sys2Proof.Machine.execSetOd a s
  | .memWrite a b => Sys2Proof.Machine.execMemWrite a b s
  | .memRead a => Sys2Proof.Machine.execMemRead a s
  | .setPageUsed a => Sys2Proof.Machine.execSetPageUsed a s
  | .setPageRedir a b => Sys2Proof.Machine.execSetPageRedir a b s
  | .getPageRedir a => Sys2Proof.Machine.execGetPageRedir a s
  | .clearStatus => Sys2Proof.Machine.execClearStatus s
  | .statusRead a => Sys2Proof.Machine.execStatusRead a s
  | .translate a => Sys2Proof.Machine.execTranslate a s
  | .hostRsvd14 => Sys2Proof.Machine.execHostRsvd14 s
  | .hostRsvd15 => Sys2Proof.Machine.execHostRsvd15 s

end Sys2Proof.Machine
end

