-- ==== Sys2Proof/Machine/Fetch.lean ====
section
/-! DEFINITION. Where a code stands when the next tick completes it (log entry 10): a host operation on the port in `IDLE`; a
command byte whose last slot is being decided. -/

namespace Sys2Proof.Machine

/-- The inputs of a tick in which the host port carries the `host20` value `w`. -/
def hostInput (w : Nat) : TickIn where
  rst := false
  pull := false
  hValid := true
  hOp := BitVec.ofNat 4 w
  hA := BitVec.ofNat 8 (w / 2 ^ 4)
  hB := BitVec.ofNat 8 (w / 2 ^ 12)

/-- The inputs of a tick in which the master's last sample decides a received bit: released for 1, pulled low for 0. -/
def slotInput (b : Bool) : TickIn where
  rst := false
  pull := !b
  hValid := false
  hOp := 0
  hA := 0
  hB := 0

/-- The last slot of the byte `v` is at its last sample in the receive phase `ph`; the seven earlier bits are in. -/
def atLastSlot (ph : Phase) (v : Byte) (s : State) : State :=
  { s with
    phase := ph, bt := .sample, bit := 7, cnt := 1, oe := false, attached := true,
    byte := v &&& 0x7F, inputs := slotInput (v.getLsbD 7) :: s.inputs }

/-- Place a code of a given format where the next tick completes it. -/
def placeWord (f : Format) (w : Nat) (s : State) : State :=
  match f with
  | .bus8 => atLastSlot .rxCmd (BitVec.ofNat 8 w) s
  | .dev24 =>
    let cmd := BitVec.ofNat 8 w
    let ta1 := BitVec.ofNat 8 (w / 2 ^ 8)
    atLastSlot .dRxTa2 (BitVec.ofNat 8 (w / 2 ^ 16))
      { s with dcmd := cmd, ta1 := ta1, crc8 := crc8Buf [cmd, ta1] 0x00 }
  | .host20 => { s with phase := .idle, inputs := hostInput w :: s.inputs }

/-- Place a word of the opcode table; a word of no format changes nothing. -/
def placeTableWord (nbits w : Nat) (s : State) : State :=
  match tableFormat nbits w with
  | none => s
  | some f => placeWord f w s

end Sys2Proof.Machine
end

