-- ==== Sys2Proof/Machine/Flags.lean ====
section
/-! DEFINITION. The flags and outputs that are functions of the state (spec/10_state.md R33 to R36, R54), with the numeric codes
of the enumerations. No operation computes a condition flag; the one stored result flag is `dispatched`. -/

namespace Sys2Proof.Machine

/-- A send phase (R35, R164). -/
def Phase.isSend : Phase → Bool
  | .dTxCrc1 => true
  | .dTxData => true
  | .dTxCrc2 => true
  | .idle => false
  | .waitReset => false
  | .confirmReset => false
  | .presDelay => false
  | .presDrive => false
  | .presRelease => false
  | .rxCmd => false
  | .dRxCmd => false
  | .dRxTa1 => false
  | .dRxTa2 => false

/-- A receive phase (R35, R164). -/
def Phase.isReceive : Phase → Bool
  | .rxCmd => true
  | .dRxCmd => true
  | .dRxTa1 => true
  | .dRxTa2 => true
  | .idle => false
  | .waitReset => false
  | .confirmReset => false
  | .presDelay => false
  | .presDrive => false
  | .presRelease => false
  | .dTxCrc1 => false
  | .dTxData => false
  | .dTxCrc2 => false

/-- A byte phase: the bit engine runs (R35). -/
def Phase.isByte (p : Phase) : Bool := p.isReceive || p.isSend

/-- `phase[3:0]` (R35). -/
def Phase.code : Phase → BitVec 4
  | .idle => 0
  | .waitReset => 1
  | .confirmReset => 2
  | .presDelay => 3
  | .presDrive => 4
  | .presRelease => 5
  | .rxCmd => 6
  | .dRxCmd => 7
  | .dRxTa1 => 8
  | .dRxTa2 => 9
  | .dTxCrc1 => 10
  | .dTxData => 11
  | .dTxCrc2 => 12

/-- `bt[2:0]` (R36). -/
def BitState.code : BitState → BitVec 3
  | .waitHigh => 0
  | .waitFall => 1
  | .sample => 2
  | .drive => 3
  | .hold => 4

/-- `err[2:0]` (R129). -/
def ErrCode.code : ErrCode → BitVec 3
  | .noError => 0
  | .resetInProgress => 1
  | .veryLongReset => 2
  | .presenceLowOnLine => 3
  | .awaitTimeslotTimeoutHigh => 4
  | .firstBitOfByteTimeout => 5
  | .incorrectOnewireCmd => 6
  | .incorrectSlaveUsage => 7

/-- `busy = (phase != IDLE)` (R34). -/
def busy (s : State) : Bool := s.phase != .idle

/-- `crit`: a byte phase, the critical section of a byte transfer (R54). -/
def crit (s : State) : Bool := s.phase.isByte

/-- `ow_oe` (R33). -/
def owOe (s : State) : Bool := s.oe

/-- The Moore outputs (R33, R34). -/
structure StatusOut where
  owOe : Bool
  busy : Bool
  crit : Bool
  err : BitVec 3
  errCmd : Byte
  od : Bool
  attached : Bool
  dispatched : Bool
  phase : BitVec 4
  bt : BitVec 3
  deriving DecidableEq, Repr

/-- The Moore outputs of a state. -/
def statusOut (s : State) : StatusOut where
  owOe := Sys2Proof.Machine.owOe s
  busy := Sys2Proof.Machine.busy s
  crit := Sys2Proof.Machine.crit s
  err := s.err.code
  errCmd := s.errCmd
  od := s.od
  attached := s.attached
  dispatched := s.dispatched
  phase := s.phase.code
  bt := s.bt.code

end Sys2Proof.Machine
end

