-- ==== Sys2Proof/Machine/BitTransport.lean ====
section
/-! DEFINITION. The bit engine (spec/40_bit_transport.md section 3) and the end of a byte. -/

namespace Sys2Proof.Machine

/-- `byte_done`: the per-phase action when the last slot of a byte ends (R172). In `RX_CMD` and `D_RX_TA2` the code of an
operation is complete and the operation runs (R236, R274); in a phase without a byte there is none. -/
def byteDone (s : State) : Action :=
  match s.phase with
  | .rxCmd => .run (decodeBus s.byte) s
  | .dRxCmd => .move (receivedCommand s)
  | .dRxTa1 => .move (receivedTa1 s)
  | .dRxTa2 => .run (decodeDev s.dcmd s.ta1 s.byte) s
  | .dTxCrc1 => .move (sentCommandCrc s)
  | .dTxData => .move (sentData s)
  | .dTxCrc2 => .move (sentDataCrc s)
  | .idle => .move s
  | .waitReset => .move s
  | .confirmReset => .move s
  | .presDelay => .move s
  | .presDrive => .move s
  | .presRelease => .move s

/-- In a receive phase the slot's value is written to `byte[bit]`; a sent slot has none (R172). -/
def storeBit (v : Option Bool) (s : State) : State :=
  match v with
  | some b => if s.phase.isReceive then { s with byte := setBit s.byte s.bit.toNat b } else s
  | none => s

/-- `bit_done(v)` (R172). -/
def bitDone (v : Option Bool) (s : State) : Action :=
  let s' := storeBit v s
  if s'.bit = 7 then byteDone s'
  else .move { s' with bit := s'.bit + 1, bt := .waitHigh, cnt := (bounds s').slotMax }

/-- Slot start (R168): the transition taken at the falling edge. -/
def slotStart (s : State) : State :=
  if s.phase.isSend then
    if s.byte.getLsbD s.bit.toNat then { s with bt := .hold, cnt := (bounds s).readMax }
    else { s with bt := .drive, oe := true, cnt := (bounds s).writeZero }
  else { s with bt := .sample, cnt := (bounds s).readMin }

/-- The error of a slot that never starts (R167): a byte boundary is told apart. -/
def slotTimeoutError (s : State) : ErrCode :=
  if s.bit = 0 then .firstBitOfByteTimeout else .awaitTimeslotTimeoutHigh

/-- One tick of the bit engine with the sample `x` (R166 to R171). -/
def bitEngine (x : Bool) (s : State) : Action :=
  match s.bt with
  | .waitHigh =>
    match waitWhile false x s with
    | .seen t => .move { t with bt := .waitFall, cnt := t.cfg.profile.highTimeout }
    | .timeout t => .move (resetInProgress t)
    | .stay t => .move t
  | .waitFall =>
    match waitWhile true x s with
    | .seen t => .move (slotStart t)
    | .timeout t => .move (raise (slotTimeoutError t) t)
    | .stay t => .move t
  | .sample =>
    match waitWhile false x s with
    | .seen t => bitDone (some true) t
    | .timeout t => bitDone (some false) t
    | .stay t => .move t
  | .drive =>
    match delayTick s with
    | .seen t => .move t
    | .timeout t => bitDone none { t with oe := false }
    | .stay t => .move t
  | .hold =>
    match delayTick s with
    | .seen t => .move t
    | .timeout t => bitDone none t
    | .stay t => .move t

end Sys2Proof.Machine
end

