-- ==== Sys2Proof/Machine/BusStateMachine.lean ====
section
/-! DEFINITION. Reset detection and presence (spec/42_bus_state_machine.md sections 2 and 3), one definition per phase. -/

namespace Sys2Proof.Machine

/-- A tick of `WAIT_RESET` with the sample `x` (R225 to R227). -/
def waitReset (x : Bool) (s : State) : State :=
  if x = false ∧ s.cfg.profile.settleMin ≤ s.hi then { s with phase := .confirmReset, low := 1 }
  else
    let t := countDown { s with hi := if x then min (s.hi + 1) s.cfg.profile.settleMin else 0 }
    if t.cnt = 0 then idleTimeout t else t

/-- The speed after a valid reset pulse of `d` samples: overdrive falls back to normal speed (R230). -/
def speedAfterReset (s : State) (d : Nat) : Bool :=
  s.od && !decide (s.cfg.profile.normal.resetMin ≤ d)

/-- The release of a measured pulse (R229): too short is ignored; otherwise it is a valid reset and presence follows at the
speed that R230 gives. -/
def classifyPulse (s : State) : State :=
  if s.low < (bounds s).resetMin then
    { s with phase := .waitReset, hi := 1, cnt := s.cfg.profile.idleTimeout }
  else
    let t := { s with od := speedAfterReset s s.low }
    { t with phase := .presDelay, cnt := (bounds t).presenceDelay }

/-- A tick of `CONFIRM_RESET` with the sample `x` (R228, R229). -/
def confirmReset (x : Bool) (s : State) : State :=
  if x then classifyPulse s
  else
    let t := { s with low := counterValue s.cfg (s.low + 1) }
    if s.cfg.profile.resetTimeout ≤ s.low + 1 then raise .veryLongReset t else t

/-- A tick of `PRES_DELAY` (R232). -/
def presDelay (s : State) : State :=
  match delayTick s with
  | .seen t => t
  | .timeout t => { t with oe := true, phase := .presDrive, cnt := (bounds t).presenceMin }
  | .stay t => t

/-- A tick of `PRES_DRIVE` (R233). -/
def presDrive (s : State) : State :=
  match delayTick s with
  | .seen t => t
  | .timeout t =>
    { t with oe := false, phase := .presRelease, cnt := (bounds t).presenceMax - (bounds t).presenceMin }
  | .stay t => t

/-- A tick of `PRES_RELEASE` with the sample `x` (R234). -/
def presRelease (x : Bool) (s : State) : State :=
  match waitWhile false x s with
  | .seen t => startByte .rxCmd 0x00 t
  | .timeout t => raise .presenceLowOnLine t
  | .stay t => t

end Sys2Proof.Machine
end

