-- ==== Sys2Proof/Machine/Profile.lean ====
section
/-! DEFINITION. Which configurations have a meaning (spec/00_scope.md R7, R10). -/

namespace Sys2Proof.Machine

/-- The constraints of R7 that speak of one speed. -/
def speedOk (c : Cfg) (b : SpeedBounds) : Bool :=
  decide (b.readMax > b.writeZero) && decide (b.resetMin > b.slotMax + b.readMax) &&
  decide (b.resetMax > b.resetMin) && decide (b.presenceMax > b.presenceMin) &&
  decide (c.profile.resetTimeout > b.resetMax) &&
  [b.resetMin, b.resetMax, b.presenceDelay, b.presenceMin, b.presenceMax, b.slotMax, b.writeZero, b.readMin,
    b.readMax].all (fun n => decide (1 ≤ n) && decide (n < 2 ^ c.cntW)) &&
  decide (b.slotMax + b.readMax < 2 ^ c.cntW)

/-- A well-formed timing profile (R7). -/
def profileOk (c : Cfg) : Bool :=
  speedOk c c.profile.normal && speedOk c c.profile.overdrive &&
  [c.profile.resetTimeout, c.profile.idleTimeout, c.profile.highTimeout, c.profile.settleMin].all
    (fun n => decide (1 ≤ n) && decide (n < 2 ^ c.cntW)) &&
  decide (c.profile.overdrive.resetMin ≤ c.profile.normal.resetMin)

/-- A well-formed geometry (R10). -/
def geometryOk (g : Geometry) : Bool :=
  decide (1 ≤ g.pageCount) && decide (g.pageCount ≤ 4) &&
  decide (1 ≤ g.pageShift) && decide (g.pageShift ≤ 7) &&
  decide (g.pageCount * 2 ^ g.pageShift ≤ 256) &&
  decide (1 ≤ g.memSize) && decide (g.memSize ≤ g.pageCount * 2 ^ g.pageShift)

/-- A configuration that the machine takes (R7, R10). -/
def cfgOk (c : Cfg) : Bool := profileOk c && geometryOk c.geometry

/-- Why a configuration is refused, if it is (R7, U13; R10, U14). -/
def cfgRefusal (c : Cfg) : Option Refusal :=
  if !profileOk c then some .illFormedProfile
  else if !geometryOk c.geometry then some .illFormedGeometry
  else none

end Sys2Proof.Machine
end

