-- ==== Sys2Proof/Machine/Sequencer.lean ====
section
/-! DEFINITION. One tick of the block: which transition rule applies (spec/10_state.md R37). -/

namespace Sys2Proof.Machine

/-- The sequencer's transition with the sample `x`, selected by the phase (R37). In `IDLE` it has none (R311). -/
def sequencer (x : Bool) (s : State) : Action :=
  match s.phase with
  | .idle => .move s
  | .waitReset => .move (waitReset x s)
  | .confirmReset => .move (confirmReset x s)
  | .presDelay => .move (presDelay s)
  | .presDrive => .move (presDrive s)
  | .presRelease => .move (presRelease x s)
  | .rxCmd => bitEngine x s
  | .dRxCmd => bitEngine x s
  | .dRxTa1 => bitEngine x s
  | .dRxTa2 => bitEngine x s
  | .dTxCrc1 => bitEngine x s
  | .dTxData => bitEngine x s
  | .dTxCrc2 => bitEngine x s

/-- One tick with inputs `u` and line sample `x`: `rst` overrides everything (R31, R390); in `IDLE` a presented host operation
runs; in every other phase the sequencer moves and the host port is turned away (R311). -/
def tick (u : TickIn) (x : Bool) (s : State) : Action :=
  if u.rst then .move (resetTick s)
  else if s.phase = .idle then
    if u.hValid then .run (decodeHost u.hOp u.hA u.hB) s else .move s
  else sequencer x s

end Sys2Proof.Machine
end

