-- ==== Sys2Proof/Machine/Step.lean ====
section
/-! DEFINITION. One step is one tick of the block's clock (spec/00_scope.md R12). -/

namespace Sys2Proof.Machine

/-- Run what a tick came to. -/
def Action.outcome : Action → Host.Outcome State Fault Refusal
  | .move s => .next s
  | .run i s => exec i s

/-- `S(t+1) = Step(Cfg, S(t), ow_in(t), host(t))` (R12); a configuration that breaks R7 or R10 is refused. -/
def step (s : State) : Host.Outcome State Fault Refusal :=
  match cfgRefusal s.cfg with
  | some r => .refused r
  | none => (tick (nextInput s) (lineLevel s) (afterInput s)).outcome

/-- The state in which the next tick completes the code `w` (log entry 10). -/
def State.withFetchWord (s : State) (nbits w : Nat) : State := placeTableWord nbits w s

end Sys2Proof.Machine
end

