-- ==== Sys2Proof/Safety.lean ====
section
/-! DEFINITION. What a good state and a good step are, in the terms the statements use: the invariants of spec/10_state.md R58,
the successor relation of R37, and what stands on the line during a transaction (spec/30_encoding.md R122). -/

namespace Sys2Proof.Machine

/-- The tick to come is an ordinary one under a legal configuration (R7, R10): the block's reset is not asserted, and the line
sample is `x`. -/
structure Ticking (s : State) (x : Bool) : Prop where
  cfg : cfgOk s.cfg = true
  noRst : (nextInput s).rst = false
  line : lineLevel s = x

/-- The inputs of the `k`-th tick to come. -/
def inputAt (s : State) (k : Nat) : TickIn :=
  (s.inputs[k]?).getD (Config.envInput (s.now + k))

/-- A counter loaded for a wait: at least one tick is left, and the value fits the counter (R58 (f), R43). -/
def counterLive (s : State) : Prop := 1 ≤ s.cnt ∧ s.cnt < 2 ^ s.cfg.cntW

/-- The phases that wait on `cnt`: all but `IDLE` and `CONFIRM_RESET` (R43). -/
def Phase.waits (p : Phase) : Bool := p != .idle && p != .confirmReset

/-- The sequencer's invariant: R58 (a), (b), (e), (f), (g), the idle values of `bt` and `bit` (R36, R52), and the widths of the
counters (R43 to R45, R84). -/
structure SequencerInv (s : State) : Prop where
  /-- R58 (a). -/
  drivesOnly : s.oe = true ↔ (s.phase = .presDrive ∨ (s.phase.isSend = true ∧ s.bt = .drive))
  /-- R58 (b), and R36, R52 for the other phases without a byte. -/
  quiet : s.phase.isByte = false → s.bt = .waitHigh ∧ s.bit = 0
  /-- R58 (b). -/
  idleCnt : s.phase = .idle → s.cnt = 0
  /-- R168: a slot is sampled in a receive phase, driven or held in a send phase. -/
  direction : (s.bt = .sample → s.phase.isReceive = true) ∧ (s.bt = .drive ∨ s.bt = .hold → s.phase.isSend = true)
  /-- R58 (e). -/
  storedErr : s.err ≠ .resetInProgress ∧ s.err ≠ .incorrectSlaveUsage
  /-- R58 (f). -/
  waiting : s.phase.waits = true → 1 ≤ s.cnt
  /-- R58 (g). -/
  held : s.phase ≠ .idle → s.attached = true
  /-- R43. -/
  cntFits : s.cnt < 2 ^ s.cfg.cntW
  /-- R44. -/
  hiFits : s.hi ≤ s.cfg.profile.settleMin
  /-- R45. -/
  lowFits : s.low < 2 ^ s.cfg.cntW
  /-- R228, R240: a measured pulse has at least one sample and is below the limit. -/
  measuring : s.phase = .confirmReset → 1 ≤ s.low ∧ s.low < s.cfg.profile.resetTimeout
  /-- R84. -/
  addrFits : s.addr.toNat ≤ 256
  /-- R278: the address being read is inside the memory. -/
  addressed : s.phase = .dTxData → s.addr.toNat < s.cfg.geometry.memSize

/-- A redirection byte of page `p` as the setters leave it (R58 (d)). -/
def redirectionLegal (g : Geometry) (p : Nat) (r : Byte) : Prop :=
  r = 0xFF ∨ (p < g.pageCount ∧ ∃ q, q < g.pageCount ∧ q ≠ p ∧ r = ~~~(BitVec.ofNat 8 q))

/-- The storage invariant: R58 (c), (d), the protection bits of absent pages (U3), and the canonical form of `Mem` with no
address past its end (R51). -/
structure StorageInv (s : State) : Prop where
  /-- R58 (c). -/
  marker : statusGet s 7 = 0x00
  /-- R58 (c). -/
  reserved : statusGet s 5 = 0xFF ∧ statusGet s 6 = 0xFF
  /-- R58 (c). -/
  lowBits : statusGet s 0 &&& 0x0F = 0x0F
  /-- U3 of spec/93_implementation_defined.md. -/
  absentPages : ∀ p, s.cfg.geometry.pageCount ≤ p → p < 4 → (statusGet s 0).getLsbD (p + 4) = true
  /-- R58 (d). -/
  redirections : ∀ p, p < 4 → redirectionLegal s.cfg.geometry p (statusGet s (1 + p))
  memCanonical : Memory.wf s.mem = true
  memInside : Memory.below s.cfg.geometry.memSize s.mem = true

/-- The first `n` data bytes of a read that starts at `ta1` (R122 field 8). -/
def dataBytes (s : State) (n : Nat) : List Byte :=
  (List.range n).map (fun k => memRead s (translateAddr s (s.ta1.toNat + k)))

/-- What a transaction has received and what it is sending (R122 fields 4 to 9; R272 to R279). -/
structure TransactionInv (s : State) : Prop where
  command : s.phase = .dRxCmd → s.crc8 = 0x00
  firstAddress : s.phase = .dRxTa1 → s.crc8 = crc8Buf [s.dcmd] 0x00
  secondAddress : s.phase = .dRxTa2 → s.crc8 = crc8Buf [s.dcmd, s.ta1] 0x00
  /-- Field 7. -/
  commandCrc : s.phase = .dTxCrc1 → s.dcmd = 0xF0 ∧ s.ta2 = 0x00 ∧ s.byte = crc8Buf [0xF0, s.ta1, 0x00] 0x00
  /-- Field 8: the byte of address `addr` is being sent, the bytes before it are folded into the CRC. -/
  data : s.phase = .dTxData →
    s.ta1.toNat ≤ s.addr.toNat ∧ s.addr.toNat < s.cfg.geometry.memSize ∧
    s.byte = memRead s (translateAddr s s.addr.toNat) ∧
    s.crc8 = crc8Buf (dataBytes s (s.addr.toNat - s.ta1.toNat)) 0x00
  /-- Field 9. -/
  dataCrc : s.phase = .dTxCrc2 → s.byte = crc8Buf (dataBytes s (s.cfg.geometry.memSize - s.ta1.toNat)) 0x00

/-- The successors of a phase other than itself (R37). -/
def successors : Phase → List Phase
  | .idle => [.waitReset]
  | .waitReset => [.confirmReset, .idle]
  | .confirmReset => [.waitReset, .presDelay, .idle]
  | .presDelay => [.presDrive]
  | .presDrive => [.presRelease]
  | .presRelease => [.rxCmd, .idle]
  | .rxCmd => [.dRxCmd, .idle, .confirmReset]
  | .dRxCmd => [.dRxTa1, .confirmReset, .idle]
  | .dRxTa1 => [.dRxTa2, .confirmReset, .idle]
  | .dRxTa2 => [.dTxCrc1, .idle, .confirmReset]
  | .dTxCrc1 => [.dTxData, .dTxCrc2, .confirmReset, .idle]
  | .dTxData => [.dTxCrc2, .confirmReset, .idle]
  | .dTxCrc2 => [.idle, .confirmReset]

/-- A phase may stay or go to one of its successors (R37). -/
def mayFollow (p q : Phase) : Prop := q = p ∨ q ∈ successors p

/-- What no transition of a running cycle writes (R96, R244, R367). -/
def storageKept (s t : State) : Prop :=
  t.mem = s.mem ∧ t.status = s.status ∧ t.attached = s.attached ∧ t.cfg = s.cfg

end Sys2Proof.Machine
end

