-- ==== Sys2Proof/Certificates/Slice0/Obligations.lean ====
section
/-! DEFINITION. The statements for the provers. `afterInput s` is `s` with the tick's inputs taken from the list, the tick counted
and no answer on the host port (the model's own fields, log entries 1, 2, 4); a record update leaves every field it does not
name as it was, all of memory and the status block among them. -/

open Sys2Proof Sys2Proof.Machine

/-! ### Encoding -/

/-- Decoding the encoding of a well-formed operation gives it back, with every operand at every value (R125, R126, R128, R132). -/
def Obligations.DecodeOfEncode : Prop :=
  ∀ i : Instr, i.wf = true → decode i.format (encode i) = .ok i

/-- Whatever decodes is well-formed and of the format it was read as; on the line no bit is dropped, on the host port the
operation code is kept (R125, R126, R128, R132). -/
def Obligations.EncodeOfDecode : Prop :=
  ∀ (f : Format) (bytes : List Byte) (i : Instr), decode f bytes = .ok i →
    i.wf = true ∧ i.format = f ∧ (f ≠ .host20 → encode i = bytes) ∧
    (f = .host20 → valueOf (encode i) % 16 = valueOf bytes % 16)

/-- Words written out from the spec's tables (R125, R126, R128, R132; E8, V-EE, program 4, V-ST-1 of spec/95_test_vectors.md),
and the 16 operation codes of the host port with the operands each takes; the others are ignored (R128). -/
def Obligations.KnownWordsDecode : Prop :=
  decode .bus8 [0xCC] = .ok .skipRom ∧ decode .bus8 [0x33] = .ok (.busOther 0x33) ∧
  decode .dev24 [0xF0, 0x2B, 0x00] = .ok (.readMemory 0x2B 0x00) ∧
  decode .dev24 [0xAA, 0x00, 0x00] = .ok (.devOther 0xAA 0x00 0x00) ∧
  decode .host20 [0xB6, 0x02, 0x03] = .ok (.memWrite 0x2B 0x30) ∧
  decode .host20 [0x19, 0x30, 0x00] = .ok (.setPageRedir 0x01 0x03) ∧
  ∀ a b : Byte,
    decodeHost 0 a b = .nop ∧ decodeHost 1 a b = .poll ∧ decodeHost 2 a b = .clearError ∧ decodeHost 3 a b = .attach ∧
    decodeHost 4 a b = .detach ∧ decodeHost 5 a b = .setOd a ∧ decodeHost 6 a b = .memWrite a b ∧
    decodeHost 7 a b = .memRead a ∧ decodeHost 8 a b = .setPageUsed a ∧ decodeHost 9 a b = .setPageRedir a b ∧
    decodeHost 10 a b = .getPageRedir a ∧ decodeHost 11 a b = .clearStatus ∧ decodeHost 12 a b = .statusRead a ∧
    decodeHost 13 a b = .translate a ∧ decodeHost 14 a b = .hostRsvd14 ∧ decodeHost 15 a b = .hostRsvd15

/-- The Moore outputs in every state: `busy`, `crit`, `ow_oe`, the registers' outputs (R33, R34, R54), and the numeric codes of
phase, bit-engine state and error (R35, R36, R129). -/
def Obligations.StatusOutputsFollowState : Prop :=
  (∀ s : State,
    ((statusOut s).busy = true ↔ s.phase ≠ .idle) ∧
    ((statusOut s).crit = true ↔
      s.phase ∈ [Phase.rxCmd, .dRxCmd, .dRxTa1, .dRxTa2, .dTxCrc1, .dTxData, .dTxCrc2]) ∧
    (statusOut s).owOe = s.oe ∧ (statusOut s).errCmd = s.errCmd ∧ (statusOut s).od = s.od ∧
    (statusOut s).attached = s.attached ∧ (statusOut s).dispatched = s.dispatched ∧
    (statusOut s).phase = s.phase.code ∧ (statusOut s).bt = s.bt.code ∧ (statusOut s).err = s.err.code) ∧
  (Phase.code .idle = 0 ∧ Phase.code .waitReset = 1 ∧ Phase.code .confirmReset = 2 ∧ Phase.code .presDelay = 3 ∧
    Phase.code .presDrive = 4 ∧ Phase.code .presRelease = 5 ∧ Phase.code .rxCmd = 6 ∧ Phase.code .dRxCmd = 7 ∧
    Phase.code .dRxTa1 = 8 ∧ Phase.code .dRxTa2 = 9 ∧ Phase.code .dTxCrc1 = 10 ∧ Phase.code .dTxData = 11 ∧
    Phase.code .dTxCrc2 = 12) ∧
  (BitState.code .waitHigh = 0 ∧ BitState.code .waitFall = 1 ∧ BitState.code .sample = 2 ∧ BitState.code .drive = 3 ∧
    BitState.code .hold = 4) ∧
  (ErrCode.code .noError = 0 ∧ ErrCode.code .resetInProgress = 1 ∧ ErrCode.code .veryLongReset = 2 ∧
    ErrCode.code .presenceLowOnLine = 3 ∧ ErrCode.code .awaitTimeslotTimeoutHigh = 4 ∧
    ErrCode.code .firstBitOfByteTimeout = 5 ∧ ErrCode.code .incorrectOnewireCmd = 6 ∧
    ErrCode.code .incorrectSlaveUsage = 7)

/-! ### A step runs the decoded operation -/

/-- In `IDLE` a presented host operation runs (R310, R311): the step is `exec` of what the port decodes to, at the state whose
tick inputs have been taken (log entry 1). -/
def Obligations.StepRunsHostOperation : Prop :=
  ∀ s : State, cfgOk s.cfg = true → (nextInput s).rst = false → s.phase = .idle → (nextInput s).hValid = true →
    step s = exec (decodeHost (nextInput s).hOp (nextInput s).hA (nextInput s).hB)
      { s with inputs := s.inputs.tail, now := s.now + 1, port := ⟨false, false, 0x00⟩ }

/-- When the last slot of the bus-layer byte is decided as `x`, the step is `exec` of the command that the byte with its last
bit decodes to (R171, R172, R236). -/
def Obligations.StepRunsBusCommand : Prop :=
  ∀ (s : State) (x : Bool), Ticking s x → counterLive s → s.phase = .rxCmd → s.bt = .sample → s.bit = 7 →
    (x = true ∨ s.cnt = 1) →
    ∃ c : Byte, (∀ j, j < 7 → c.getLsbD j = s.byte.getLsbD j) ∧ c.getLsbD 7 = x ∧
      step s = exec (decodeBus c)
        { s with
          inputs := s.inputs.tail, now := s.now + 1, port := ⟨false, false, 0x00⟩,
          byte := c, cnt := if x then s.cnt else 0 }

/-- When the last slot of the second address byte is decided as `x`, the step is `exec` of the device command that the three
bytes decode to (R171, R172, R274). -/
def Obligations.StepRunsDeviceCommand : Prop :=
  ∀ (s : State) (x : Bool), Ticking s x → counterLive s → s.phase = .dRxTa2 → s.bt = .sample → s.bit = 7 →
    (x = true ∨ s.cnt = 1) →
    ∃ c : Byte, (∀ j, j < 7 → c.getLsbD j = s.byte.getLsbD j) ∧ c.getLsbD 7 = x ∧
      step s = exec (decodeDev s.dcmd s.ta1 c)
        { s with
          inputs := s.inputs.tail, now := s.now + 1, port := ⟨false, false, 0x00⟩,
          byte := c, cnt := if x then s.cnt else 0 }

/-! ### Bus-layer and device commands -/

/-- SKIP_ROM (R237, R164): byte 0xCC. -/
def Obligations.SkipRomDispatches : Prop :=
  decodeBus 0xCC = .skipRom ∧ ∀ s : State, exec .skipRom s =
    .next { s with
      crc8 := 0x00, phase := .dRxCmd, bit := 0, byte := 0x00, bt := .waitHigh,
      cnt := if s.od then s.cfg.profile.overdrive.slotMax else s.cfg.profile.normal.slotMax }

/-- Every other bus-layer byte: the error and the byte are recorded and the cycle aborts (R238, R362). -/
def Obligations.OtherBusCommandAborts : Prop :=
  ∀ (cmd : Byte) (s : State), (cmd ≠ 0xCC → decodeBus cmd = .busOther cmd) ∧ exec (.busOther cmd) s =
    .next { s with
      errCmd := cmd, err := .incorrectOnewireCmd, dispatched := false,
      phase := .idle, bt := .waitHigh, cnt := 0, bit := 0, oe := false }

/-- Command byte 0xF0 is READ_MEMORY whatever the address bytes (R126); with a zero high address byte it starts its answer with
the CRC of command and address (R274, R276). That the command byte and the first address byte are stored (again) is the model's choice, log entry 8. -/
def Obligations.ReadMemoryAnswersWithCommandCrc : Prop :=
  (∀ ta1 ta2, decodeDev 0xF0 ta1 ta2 = .readMemory ta1 ta2) ∧
  ∀ (ta1 : Byte) (s : State), exec (.readMemory ta1 0x00) s =
    .next { s with
      dcmd := 0xF0, ta1 := ta1, ta2 := 0x00, crc8 := crc8Upd s.crc8 0x00, byte := crc8Upd s.crc8 0x00,
      phase := .dTxCrc1, bit := 0, bt := .waitHigh,
      cnt := if s.od then s.cfg.profile.overdrive.slotMax else s.cfg.profile.normal.slotMax }

/-- READ_MEMORY with a non-zero high address byte ends the cycle in silence (R274, R275, R243; the stored command and first
address byte: log entry 8). -/
def Obligations.ReadMemoryRejectsHighAddress : Prop :=
  ∀ (ta1 ta2 : Byte) (s : State), ta2 ≠ 0x00 → exec (.readMemory ta1 ta2) s =
    .next { s with
      dcmd := 0xF0, ta1 := ta1, ta2 := ta2, crc8 := crc8Upd s.crc8 ta2, dispatched := true,
      phase := .idle, bt := .waitHigh, cnt := 0, bit := 0, oe := false }

/-- Every other command byte is DEV_OTHER (R126) and ends the cycle in silence (R274, R281, R243; the stored command and first address byte: log
entry 8). -/
def Obligations.OtherDeviceCommandIsSilent : Prop :=
  ∀ (cmd ta1 ta2 : Byte) (s : State), (cmd ≠ 0xF0 → decodeDev cmd ta1 ta2 = .devOther cmd ta1 ta2) ∧
    exec (.devOther cmd ta1 ta2) s =
    .next { s with
      dcmd := cmd, ta1 := ta1, ta2 := ta2, crc8 := crc8Upd s.crc8 ta2, dispatched := true,
      phase := .idle, bt := .waitHigh, cnt := 0, bit := 0, oe := false }

/-! ### Host operations, accepted in `IDLE` -/

/-- NOP and the reserved codes change nothing but the answer (R312, R326). -/
def Obligations.NopAndReservedCodesChangeNothing : Prop :=
  (∀ a b, decodeHost 0 a b = .nop ∧ decodeHost 14 a b = .hostRsvd14 ∧ decodeHost 15 a b = .hostRsvd15) ∧
  ∀ s : State, s.phase = .idle →
    exec .nop s = .next { s with port := ⟨true, true, 0x00⟩ } ∧
    exec .hostRsvd14 s = .next { s with port := ⟨true, false, 0x00⟩ } ∧
    exec .hostRsvd15 s = .next { s with port := ⟨true, false, 0x00⟩ }

/-- POLL (R313). -/
def Obligations.PollStartsCycle : Prop :=
  ∀ s : State, s.phase = .idle →
    (s.attached = true → exec .poll s =
      .next { s with
        err := .noError, dispatched := false, phase := .waitReset, hi := 0, cnt := s.cfg.profile.idleTimeout,
        port := ⟨true, true, 0x00⟩ }) ∧
    (s.attached = false → exec .poll s =
      .next { s with err := .noError, dispatched := false, port := ⟨true, false, 0x00⟩ })

/-- CLEAR_ERROR (R314). -/
def Obligations.ClearErrorKeepsErrCmd : Prop :=
  (∀ a b, decodeHost 2 a b = .clearError) ∧
  ∀ s : State, s.phase = .idle →
    exec .clearError s = .next { s with err := .noError, port := ⟨true, true, 0x00⟩ }

/-- ATTACH (R315). -/
def Obligations.AttachTakesTheSlot : Prop :=
  ∀ s : State, s.phase = .idle →
    (s.attached = false → exec .attach s = .next { s with attached := true, port := ⟨true, true, 0x00⟩ }) ∧
    (s.attached = true → exec .attach s = .next { s with port := ⟨true, false, 0x00⟩ })

/-- DETACH (R316). -/
def Obligations.DetachFreesTheSlot : Prop :=
  ∀ s : State, s.phase = .idle →
    (s.attached = true → exec .detach s = .next { s with attached := false, port := ⟨true, true, 0x00⟩ }) ∧
    (s.attached = false → exec .detach s = .next { s with port := ⟨true, false, 0x00⟩ })

/-- SET_OD (R317). -/
def Obligations.SetOdWritesBitZero : Prop :=
  (∀ a b, decodeHost 5 a b = .setOd a) ∧
  ∀ (a : Byte) (s : State), s.phase = .idle →
    exec (.setOd a) s = .next { s with od := a.getLsbD 0, port := ⟨true, true, 0x00⟩ }

/-- MEM_WRITE (R318, R87): exactly one byte of `Mem` changes, or none. -/
def Obligations.MemWriteStoresOneByte : Prop :=
  ∀ (a b : Byte) (s : State), s.phase = .idle → Memory.wf s.mem = true →
    (a.toNat < s.cfg.geometry.memSize →
      ∃ t, exec (.memWrite a b) s = .next t ∧ t = { s with mem := t.mem, port := ⟨true, true, 0x00⟩ } ∧
        ∀ k, memRead t k = if k = a.toNat then b else memRead s k) ∧
    (s.cfg.geometry.memSize ≤ a.toNat → exec (.memWrite a b) s = .next { s with port := ⟨true, false, 0x00⟩ })

/-- MEM_READ (R319). -/
def Obligations.MemReadReturnsTheByte : Prop :=
  (∀ a b, decodeHost 7 a b = .memRead a) ∧
  ∀ (a : Byte) (s : State), s.phase = .idle →
    (a.toNat < s.cfg.geometry.memSize →
      exec (.memRead a) s = .next { s with port := ⟨true, true, Memory.read s.mem a.toNat⟩ }) ∧
    (s.cfg.geometry.memSize ≤ a.toNat → exec (.memRead a) s = .next { s with port := ⟨true, false, 0xFF⟩ })

/-- SET_PAGE_USED (R320, R283). -/
def Obligations.SetPageUsedClearsOneBit : Prop :=
  ∀ (a : Byte) (s : State), s.phase = .idle →
    ∃ t, exec (.setPageUsed a) s = .next t ∧ t = { s with status := t.status, port := ⟨true, true, 0x00⟩ } ∧
      (a.toNat < s.cfg.geometry.pageCount →
        (∀ j, j < 8 → (statusGet t 0).getLsbD j = ((statusGet s 0).getLsbD j && decide (j ≠ a.toNat + 4))) ∧
        ∀ i, i ≠ 0 → statusGet t i = statusGet s i) ∧
      (s.cfg.geometry.pageCount ≤ a.toNat → t.status = s.status)

/-- SET_PAGE_REDIR (R321, R284), under the geometry's bound of R10. -/
def Obligations.SetPageRedirWritesOneByte : Prop :=
  ∀ (a b : Byte) (s : State), s.phase = .idle → s.cfg.geometry.pageCount ≤ 4 →
    (a.toNat < s.cfg.geometry.pageCount ∧ b.toNat < s.cfg.geometry.pageCount →
      ∃ t, exec (.setPageRedir a b) s = .next t ∧ t = { s with status := t.status, port := ⟨true, true, 0x00⟩ } ∧
        ∀ i, statusGet t i = if i = 1 + a.toNat then (if a = b then 0xFF else ~~~b) else statusGet s i) ∧
    (¬(a.toNat < s.cfg.geometry.pageCount ∧ b.toNat < s.cfg.geometry.pageCount) →
      exec (.setPageRedir a b) s = .next { s with port := ⟨true, false, 0x00⟩ })

/-- GET_PAGE_REDIR (R322, R285). -/
def Obligations.GetPageRedirComplements : Prop :=
  ∀ (a : Byte) (s : State), s.phase = .idle →
    (a.toNat < s.cfg.geometry.pageCount →
      exec (.getPageRedir a) s = .next { s with port := ⟨true, true, ~~~(statusGet s (1 + a.toNat))⟩ }) ∧
    (s.cfg.geometry.pageCount ≤ a.toNat → exec (.getPageRedir a) s = .next { s with port := ⟨true, true, 0x00⟩ })

/-- CLEAR_STATUS (R323, R286). -/
def Obligations.ClearStatusRestores : Prop :=
  ∀ s : State, s.phase = .idle → exec .clearStatus s =
    .next { s with
      status := #v[0xFF, 0xFF, 0xFF, 0xFF, 0xFF, 0xFF, 0xFF, 0x00], port := ⟨true, true, 0x00⟩ }

/-- STATUS_READ (R324). -/
def Obligations.StatusReadReturnsTheByte : Prop :=
  (∀ a b, decodeHost 12 a b = .statusRead a) ∧
  ∀ (a : Byte) (s : State), s.phase = .idle →
    (a.toNat ≤ 7 → exec (.statusRead a) s = .next { s with port := ⟨true, true, statusGet s a.toNat⟩ }) ∧
    (7 < a.toNat → exec (.statusRead a) s = .next { s with port := ⟨true, false, 0x00⟩ })

/-- TRANSLATE (R325): the result byte is the translated address modulo 256. -/
def Obligations.TranslateReportsTheAddress : Prop :=
  ∀ (a : Byte) (s : State), s.phase = .idle →
    ∃ r : Byte, exec (.translate a) s = .next { s with port := ⟨true, true, r⟩ } ∧
      r.toNat = translateAddr s a.toNat % 256

/-- Translation in arithmetic (R90, R91): the page is the quotient, the offset the remainder. The clause `3 < p` is the guard that
R90 gives as the spec's own decision D20 (its source says nothing of such pages; log entry 11 leans on it too). -/
def Obligations.TranslationFollowsTheTable : Prop :=
  ∀ (s : State) (a p : Nat), p = a / 2 ^ s.cfg.geometry.pageShift →
    (3 < p → translateAddr s a = a) ∧
    (p ≤ 3 → statusGet s (1 + p) = 0xFF → translateAddr s a = a) ∧
    (p ≤ 3 → statusGet s (1 + p) ≠ 0xFF → translateAddr s a =
      a % 2 ^ s.cfg.geometry.pageShift + (255 - (statusGet s (1 + p)).toNat) * 2 ^ s.cfg.geometry.pageShift)

/-- After SET_PAGE_REDIR of two valid pages, GET_PAGE_REDIR gives the destination, or 0 for a self-redirection (R288). -/
def Obligations.RedirectionRoundTrip : Prop :=
  ∀ (p q : Byte) (s : State), s.phase = .idle → s.cfg.geometry.pageCount ≤ 4 →
    p.toNat < s.cfg.geometry.pageCount → q.toNat < s.cfg.geometry.pageCount →
    ∃ t u, exec (.setPageRedir p q) s = .next t ∧ exec (.getPageRedir p) t = .next u ∧
      u.port = ⟨true, true, if p = q then 0x00 else q⟩

/-- Under the storage invariant a translated address stays in the paged range, and what lies past the array reads 0xFF
(R94, R86). -/
def Obligations.TranslationStaysInRange : Prop :=
  ∀ (s : State) (a : Nat), cfgOk s.cfg = true → StorageInv s →
    a < s.cfg.geometry.pageCount * 2 ^ s.cfg.geometry.pageShift →
    translateAddr s a < s.cfg.geometry.pageCount * 2 ^ s.cfg.geometry.pageShift ∧ translateAddr s a < 256 ∧
    (s.cfg.geometry.memSize ≤ translateAddr s a → memRead s (translateAddr s a) = 0xFF)

/-- Which operations alone write each piece of state (R327, R88; R237, R238, R274, R275, R281 for the line commands). -/
def Obligations.OperationsWriteOnlyTheirs : Prop :=
  ∀ (i : Instr) (s t : State), exec i s = .next t →
    t.cfg = s.cfg ∧ t.inputs = s.inputs ∧ t.now = s.now ∧ t.low = s.low ∧ t.addr = s.addr ∧
    (i ≠ .poll → t.hi = s.hi) ∧
    (i ≠ .poll → i.format = .host20 → t.phase = s.phase ∧ t.cnt = s.cnt) ∧
    (i ≠ .poll → i ≠ .clearError → (∀ c, i ≠ .busOther c) → t.err = s.err) ∧
    (i ≠ .poll → (∀ c, i ≠ .busOther c) → (∀ a b, i ≠ .readMemory a b) → (∀ c a b, i ≠ .devOther c a b) →
      t.dispatched = s.dispatched) ∧
    ((∀ a b, i ≠ .readMemory a b) → (∀ c a b, i ≠ .devOther c a b) →
      t.dcmd = s.dcmd ∧ t.ta1 = s.ta1 ∧ t.ta2 = s.ta2 ∧ (i ≠ .skipRom → t.crc8 = s.crc8)) ∧
    (i ≠ .skipRom → (∀ a b, i ≠ .readMemory a b) → t.byte = s.byte) ∧
    ((∀ a b, i ≠ .memWrite a b) → t.mem = s.mem ∧ ∀ k, memRead t k = memRead s k) ∧
    (i ≠ .clearStatus → (∀ a, i ≠ .setPageUsed a) → (∀ a b, i ≠ .setPageRedir a b) → t.status = s.status) ∧
    (i ≠ .attach → i ≠ .detach → t.attached = s.attached) ∧
    ((∀ a, i ≠ .setOd a) → t.od = s.od) ∧
    ((∀ c, i ≠ .busOther c) → t.errCmd = s.errCmd) ∧
    (i.format = .host20 → t.oe = s.oe ∧ t.bt = s.bt ∧ t.bit = s.bit ∧ t.byte = s.byte ∧ t.dcmd = s.dcmd ∧
      t.ta1 = s.ta1 ∧ t.ta2 = s.ta2 ∧ t.addr = s.addr ∧ t.crc8 = s.crc8) ∧
    (i.format ≠ .host20 → t.port = s.port)

/-! ### The host port and the line -/

/-- Outside `IDLE` every host operation is turned away and changes nothing (R310, R311). -/
def Obligations.HostOperationsTurnedAwayWhileBusy : Prop :=
  ∀ (i : Instr) (s : State), i.format = .host20 → s.phase ≠ .idle →
    exec i s = .next { s with port := ⟨false, false, 0x00⟩ }

/-- Outside `IDLE` the next state does not depend on the host port (R310, R311, R395). -/
def Obligations.HostPortHiddenWhileBusy : Prop :=
  ∀ (s : State) (u v : TickIn) (rest : List TickIn), s.phase ≠ .idle → u.rst = v.rst → u.pull = v.pull →
    step { s with inputs := u :: rest } = step { s with inputs := v :: rest }

/-- In `IDLE` the next state does not depend on the line, nor, where no operation is presented, on the rest of the host port
(R396, R310). -/
def Obligations.IdleBlindToLine : Prop :=
  ∀ (s : State) (u v : TickIn) (rest : List TickIn), s.phase = .idle → u.rst = v.rst → u.hValid = v.hValid →
    (u.hValid = true → u.hOp = v.hOp ∧ u.hA = v.hA ∧ u.hB = v.hB) →
    step { s with inputs := u :: rest } = step { s with inputs := v :: rest }

/-- In `IDLE` without an operation nothing happens but the tick (R37, R310). -/
def Obligations.IdleWithoutOperationStays : Prop :=
  ∀ s : State, cfgOk s.cfg = true → (nextInput s).rst = false → s.phase = .idle → (nextInput s).hValid = false →
    step s = .next { s with inputs := s.inputs.tail, now := s.now + 1, port := ⟨false, false, 0x00⟩ }

/-! ### Reset and configuration -/

/-- A tick with `rst = 1` (R31, R390). That the configuration, the stimulus and the tick number go on is log entry 5. -/
def Obligations.ResetInputOverridesEverything : Prop :=
  ∀ s : State, cfgOk s.cfg = true → (nextInput s).rst = true →
    step s = .next { State.resetOf s.cfg with inputs := s.inputs.tail, now := s.now + 1 }

/-- The reset state under every configuration (R57, R391). -/
def Obligations.ResetStateValues : Prop :=
  ∀ (c : Cfg) (s : State), s = State.resetOf c →
    s.phase = .idle ∧ s.bt = .waitHigh ∧ s.cnt = 0 ∧ s.hi = 0 ∧ s.low = 0 ∧ s.oe = false ∧ s.err = .noError ∧
    s.errCmd = 0x00 ∧ s.od = false ∧ s.attached = false ∧ s.dispatched = false ∧ s.byte = 0x00 ∧ s.bit = 0 ∧
    s.dcmd = 0x00 ∧ s.ta1 = 0x00 ∧ s.ta2 = 0x00 ∧ s.addr = 0 ∧ s.crc8 = 0x00 ∧
    (∀ i, i < 7 → statusGet s i = 0xFF) ∧ statusGet s 7 = 0x00 ∧ ∀ i, memRead s i = 0xFF

/-- Exactly the configurations that break R7 or R10 are refused, for ever; nothing else ever stops the machine (R7, R10, R350). -/
def Obligations.OnlyIllegalConfigurationsStop : Prop :=
  ∀ s : State,
    (∃ t, step s = .next t) ↔
    ((∀ b, b = s.cfg.profile.normal ∨ b = s.cfg.profile.overdrive →
        b.readMax > b.writeZero ∧ b.resetMin > b.slotMax + b.readMax ∧ b.resetMax > b.resetMin ∧
        b.presenceMax > b.presenceMin ∧ s.cfg.profile.resetTimeout > b.resetMax ∧
        (∀ n ∈ [b.resetMin, b.resetMax, b.presenceDelay, b.presenceMin, b.presenceMax, b.slotMax, b.writeZero,
          b.readMin, b.readMax, b.slotMax + b.readMax], 1 ≤ n ∧ n < 2 ^ s.cfg.cntW)) ∧
      (∀ n ∈ [s.cfg.profile.resetTimeout, s.cfg.profile.idleTimeout, s.cfg.profile.highTimeout,
        s.cfg.profile.settleMin], 1 ≤ n ∧ n < 2 ^ s.cfg.cntW) ∧
      s.cfg.profile.overdrive.resetMin ≤ s.cfg.profile.normal.resetMin ∧
      1 ≤ s.cfg.geometry.pageCount ∧ s.cfg.geometry.pageCount ≤ 4 ∧
      1 ≤ s.cfg.geometry.pageShift ∧ s.cfg.geometry.pageShift ≤ 7 ∧
      s.cfg.geometry.pageCount * 2 ^ s.cfg.geometry.pageShift ≤ 256 ∧ 1 ≤ s.cfg.geometry.memSize ∧
      s.cfg.geometry.memSize ≤ s.cfg.geometry.pageCount * 2 ^ s.cfg.geometry.pageShift)

/-! ### Reset detection and presence -/

/-- A tick of `WAIT_RESET` (R225, R227): a qualified fall starts a measurement, every other sample counts, and the last one
ends the cycle without an error. -/
def Obligations.WaitResetTick : Prop :=
  ∀ (s : State) (x : Bool), Ticking s x → s.phase = .waitReset → counterLive s →
    (x = false ∧ s.cfg.profile.settleMin ≤ s.hi →
      step s = .next { afterInput s with phase := .confirmReset, low := 1 }) ∧
    (¬(x = false ∧ s.cfg.profile.settleMin ≤ s.hi) → s.cnt ≠ 1 →
      step s = .next { afterInput s with
        hi := if x then min (s.hi + 1) s.cfg.profile.settleMin else 0, cnt := s.cnt - 1 }) ∧
    (¬(x = false ∧ s.cfg.profile.settleMin ≤ s.hi) → s.cnt = 1 →
      step s = .next { afterInput s with
        hi := if x then min (s.hi + 1) s.cfg.profile.settleMin else 0,
        dispatched := false, phase := .idle, bt := .waitHigh, cnt := 0, bit := 0, oe := false })

/-- A low sample of `CONFIRM_RESET` (R228, R362): it is counted, and the one that reaches the limit aborts the cycle. -/
def Obligations.LowSampleCounted : Prop :=
  ∀ s : State, Ticking s false → s.phase = .confirmReset → s.low < s.cfg.profile.resetTimeout →
    (s.low + 1 < s.cfg.profile.resetTimeout → step s = .next { afterInput s with low := s.low + 1 }) ∧
    (s.low + 1 = s.cfg.profile.resetTimeout →
      step s = .next { afterInput s with
        low := s.cfg.profile.resetTimeout, err := .veryLongReset, dispatched := false,
        phase := .idle, bt := .waitHigh, cnt := 0, bit := 0, oe := false })

/-- The release of a measured pulse (R229, R230): ignored if too short; otherwise presence follows, at normal speed if the
pulse is one at normal speed. -/
def Obligations.ReleasedPulseClassified : Prop :=
  ∀ s : State, Ticking s true → s.phase = .confirmReset →
    (s.low < (bounds s).resetMin →
      step s = .next { afterInput s with phase := .waitReset, hi := 1, cnt := s.cfg.profile.idleTimeout }) ∧
    ((bounds s).resetMin ≤ s.low → ∀ od' : Bool,
      od' = (if s.od = true ∧ s.cfg.profile.normal.resetMin ≤ s.low then false else s.od) →
      step s = .next { afterInput s with
        od := od', phase := .presDelay,
        cnt := if od' then s.cfg.profile.overdrive.presenceDelay else s.cfg.profile.normal.presenceDelay })

/-- The presence sequence (R232 to R234, R162, R163, R161, R362). -/
def Obligations.PresenceSequenced : Prop :=
  ∀ (s : State) (x : Bool), Ticking s x → counterLive s →
    (s.phase = .presDelay →
      (s.cnt ≠ 1 → step s = .next { afterInput s with cnt := s.cnt - 1 }) ∧
      (s.cnt = 1 → step s =
        .next { afterInput s with phase := .presDrive, oe := true, cnt := (bounds s).presenceMin })) ∧
    (s.phase = .presDrive →
      (s.cnt ≠ 1 → step s = .next { afterInput s with cnt := s.cnt - 1 }) ∧
      (s.cnt = 1 → step s =
        .next { afterInput s with
          phase := .presRelease, oe := false, cnt := (bounds s).presenceMax - (bounds s).presenceMin })) ∧
    (s.phase = .presRelease →
      (x = true → step s =
        .next { afterInput s with
          phase := .rxCmd, bit := 0, byte := 0x00, bt := .waitHigh, cnt := (bounds s).slotMax }) ∧
      (x = false → s.cnt ≠ 1 → step s = .next { afterInput s with cnt := s.cnt - 1 }) ∧
      (x = false → s.cnt = 1 → step s =
        .next { afterInput s with
          err := .presenceLowOnLine, dispatched := false,
          phase := .idle, bt := .waitHigh, cnt := 0, bit := 0, oe := false }))

/-! ### The bit engine -/

/-- Waiting for the end of the previous slot (R166, R240). -/
def Obligations.SlotEndAwaited : Prop :=
  ∀ (s : State) (x : Bool), Ticking s x → counterLive s → s.phase.isByte = true → s.bt = .waitHigh →
    (x = true → step s = .next { afterInput s with bt := .waitFall, cnt := s.cfg.profile.highTimeout }) ∧
    (x = false → s.cnt ≠ 1 → step s = .next { afterInput s with cnt := s.cnt - 1 }) ∧
    (x = false → s.cnt = 1 → step s =
      .next { afterInput s with
        phase := .confirmReset, low := (bounds s).slotMax + (bounds s).readMax, bt := .waitHigh, bit := 0, cnt := 0 })

/-- Waiting for the start of a slot (R167, R168, R362). -/
def Obligations.SlotStartAwaited : Prop :=
  ∀ (s : State) (x : Bool), Ticking s x → counterLive s → s.phase.isByte = true → s.bt = .waitFall →
    (x = false → s.phase.isReceive = true → step s =
      .next { afterInput s with bt := .sample, cnt := (bounds s).readMin }) ∧
    (x = false → s.phase.isSend = true → s.byte.getLsbD s.bit.toNat = false → step s =
      .next { afterInput s with bt := .drive, oe := true, cnt := (bounds s).writeZero }) ∧
    (x = false → s.phase.isSend = true → s.byte.getLsbD s.bit.toNat = true → step s =
      .next { afterInput s with bt := .hold, cnt := (bounds s).readMax }) ∧
    (x = true → s.cnt ≠ 1 → step s = .next { afterInput s with cnt := s.cnt - 1 }) ∧
    (x = true → s.cnt = 1 → step s =
      .next { afterInput s with
        err := if s.bit = 0 then .firstBitOfByteTimeout else .awaitTimeslotTimeoutHigh, dispatched := false,
        phase := .idle, bt := .waitHigh, cnt := 0, bit := 0, oe := false })

/-- A sampled slot (R161, R171, R172): an early low sample of any bit is counted; deciding a bit that is not the byte's last
gives one bit of `byte` the slot's value. -/
def Obligations.SlotSampled : Prop :=
  ∀ (s : State) (x : Bool), Ticking s x → counterLive s → s.phase.isReceive = true → s.bt = .sample →
    (s.bit ≠ 7 → x = true ∨ s.cnt = 1 →
      ∃ c : Byte, (∀ j, j < 8 → c.getLsbD j = if j = s.bit.toNat then x else s.byte.getLsbD j) ∧
        step s = .next { afterInput s with
          byte := c, bit := s.bit + 1, bt := .waitHigh, cnt := (bounds s).slotMax }) ∧
    (x = false → s.cnt ≠ 1 → step s = .next { afterInput s with cnt := s.cnt - 1 })

/-- A sent slot (R169, R170, R162, R163): the early ticks of any bit are counted, and the last tick of a bit that is not the
byte's last starts the next slot; the line sample is not looked at. -/
def Obligations.SlotSent : Prop :=
  ∀ (s : State) (x : Bool), Ticking s x → counterLive s → s.phase.isSend = true →
    (s.bt = .drive ∨ s.bt = .hold → s.cnt ≠ 1 → step s = .next { afterInput s with cnt := s.cnt - 1 }) ∧
    (s.bit ≠ 7 → s.bt = .drive → s.cnt = 1 → step s =
      .next { afterInput s with oe := false, bit := s.bit + 1, bt := .waitHigh, cnt := (bounds s).slotMax }) ∧
    (s.bit ≠ 7 → s.bt = .hold → s.cnt = 1 → step s =
      .next { afterInput s with bit := s.bit + 1, bt := .waitHigh, cnt := (bounds s).slotMax })

/-- The device's first two bytes, when their last slot is decided as `x` (R272, R273). -/
def Obligations.ReceivedBytesStored : Prop :=
  ∀ (s : State) (x : Bool), Ticking s x → counterLive s → s.bt = .sample → s.bit = 7 → (x = true ∨ s.cnt = 1) →
    ∃ c : Byte, (∀ j, j < 7 → c.getLsbD j = s.byte.getLsbD j) ∧ c.getLsbD 7 = x ∧
      (s.phase = .dRxCmd → step s =
        .next { afterInput s with
          dcmd := c, crc8 := crc8Upd s.crc8 c, phase := .dRxTa1, bit := 0, byte := 0x00, bt := .waitHigh,
          cnt := (bounds s).slotMax }) ∧
      (s.phase = .dRxTa1 → step s =
        .next { afterInput s with
          ta1 := c, crc8 := crc8Upd s.crc8 c, phase := .dRxTa2, bit := 0, byte := 0x00, bt := .waitHigh,
          cnt := (bounds s).slotMax })

/-- The answer's bytes, when the last slot of each has been sent (R277 to R279, R243). -/
def Obligations.AnswerBytesSent : Prop :=
  ∀ (s : State) (x : Bool), Ticking s x → s.cnt = 1 → counterLive s → s.bit = 7 →
    (s.bt = .drive ∨ (s.bt = .hold ∧ s.oe = false)) →
    (s.phase = .dTxCrc1 → s.ta1.toNat < s.cfg.geometry.memSize → step s =
      .next { afterInput s with
        oe := false, crc8 := 0x00, addr := BitVec.ofNat 9 s.ta1.toNat, phase := .dTxData, bit := 0, bt := .waitHigh,
        byte := memRead s (translateAddr s s.ta1.toNat), cnt := (bounds s).slotMax }) ∧
    (s.phase = .dTxCrc1 → s.cfg.geometry.memSize ≤ s.ta1.toNat → step s =
      .next { afterInput s with
        oe := false, crc8 := 0x00, addr := BitVec.ofNat 9 s.ta1.toNat, phase := .dTxCrc2, bit := 0, bt := .waitHigh,
        byte := 0x00, cnt := (bounds s).slotMax }) ∧
    (s.phase = .dTxData → s.addr.toNat + 1 < s.cfg.geometry.memSize → step s =
      .next { afterInput s with
        oe := false, crc8 := crc8Upd s.crc8 s.byte, addr := s.addr + 1, phase := .dTxData, bit := 0, bt := .waitHigh,
        byte := memRead s (translateAddr s (s.addr.toNat + 1)), cnt := (bounds s).slotMax }) ∧
    (s.phase = .dTxData → s.addr.toNat + 1 = s.cfg.geometry.memSize → step s =
      .next { afterInput s with
        oe := false, crc8 := crc8Upd s.crc8 s.byte, addr := s.addr + 1, phase := .dTxCrc2, bit := 0, bt := .waitHigh,
        byte := crc8Upd s.crc8 s.byte, cnt := (bounds s).slotMax }) ∧
    (s.phase = .dTxCrc2 → step s =
      .next { afterInput s with
        dispatched := true, phase := .idle, bt := .waitHigh, cnt := 0, bit := 0, oe := false })

/-! ### Whole-machine rules -/

/-- Every step keeps the sequencer's invariant (R58 (a), (b), (e), (f), (g), with the widths of R43 to R45 and R84). -/
def Obligations.SequencerInvariantKept : Prop :=
  ∀ s t : State, SequencerInv s → step s = .next t → SequencerInv t

/-- Every step keeps the storage invariant (R58 (c), (d), the canonical form of memory). -/
def Obligations.StorageInvariantKept : Prop :=
  ∀ s t : State, StorageInv s → step s = .next t → StorageInv t

/-- At every tick of a transaction the byte being sent is the one R122 names: the CRC of command and address, the byte of the
current address through translation, the CRC of the data bytes. -/
def Obligations.TransactionInvariantKept : Prop :=
  ∀ s t : State, TransactionInv s → step s = .next t → TransactionInv t

/-- The reset state meets the invariants under every configuration. -/
def Obligations.InvariantsHoldAtReset : Prop :=
  ∀ c : Cfg, SequencerInv (State.resetOf c) ∧ StorageInv (State.resetOf c) ∧ TransactionInv (State.resetOf c)

/-- No other pair of phases is a transition (R37). -/
def Obligations.PhasesFollowTheirSuccessors : Prop :=
  ∀ s t : State, step s = .next t → (nextInput s).rst = false → mayFollow s.phase t.phase

/-- Each error arises from its one cause (R351, R360), ends the cycle, and a host operation can only clear it. A timeout (codes 3,
4, 5) comes with the last tick of its budget alone; the premise `counterLive` of that clause is kept by every run (R58 (f)). -/
def Obligations.ErrorsHaveOneCause : Prop :=
  ∀ s t : State, step s = .next t → (nextInput s).rst = false → t.err ≠ s.err →
    (s.phase = .idle ∧ t.err = .noError) ∨
    (t.phase = .idle ∧ t.dispatched = false ∧ t.oe = false ∧
      ((t.err = .veryLongReset ∧ s.phase = .confirmReset ∧ lineLevel s = false ∧
          s.cfg.profile.resetTimeout ≤ s.low + 1) ∨
       (t.err = .presenceLowOnLine ∧ s.phase = .presRelease ∧ lineLevel s = false ∧ (counterLive s → s.cnt = 1)) ∨
       (t.err = .awaitTimeslotTimeoutHigh ∧ s.phase.isByte = true ∧ s.bt = .waitFall ∧ s.bit ≠ 0 ∧
          lineLevel s = true ∧ (counterLive s → s.cnt = 1)) ∨
       (t.err = .firstBitOfByteTimeout ∧ s.phase.isByte = true ∧ s.bt = .waitFall ∧ s.bit = 0 ∧
          lineLevel s = true ∧ (counterLive s → s.cnt = 1)) ∨
       (t.err = .incorrectOnewireCmd ∧ s.phase = .rxCmd ∧ s.bit = 7 ∧ t.errCmd = t.byte ∧ t.errCmd ≠ 0xCC)))

/-- While a cycle runs nothing on the line and nothing on the host port changes memory, the status block or the attachment;
the overdrive flag can only be cleared (R96, R367). -/
def Obligations.StorageKeptInCycle : Prop :=
  ∀ s t : State, step s = .next t → (nextInput s).rst = false → s.phase ≠ .idle →
    storageKept s t ∧ (∀ k, memRead t k = memRead s k) ∧ (t.od = true → s.od = true)

/-- However a cycle ends, the line is released, the engine is at rest, and no storage changes (R227, R243, R244, R362, R401). -/
def Obligations.CycleEndsQuiet : Prop :=
  ∀ s t : State, step s = .next t → (nextInput s).rst = false → s.phase ≠ .idle → t.phase = .idle →
    t.oe = false ∧ t.cnt = 0 ∧ t.bit = 0 ∧ t.bt = .waitHigh ∧ t.od = s.od ∧ storageKept s t ∧
    (t.dispatched = true → t.err = s.err ∧ (s.phase = .dRxTa2 ∨ s.phase = .dTxCrc2))

/-! ### Checksums -/

/-- A stream followed by its own CRC-8 folds to zero (R201 (a)). -/
def Obligations.CrcOfStreamWithItsCrcIsZero : Prop :=
  ∀ buf : List Byte, crc8Buf (buf ++ [crc8Buf buf 0x00]) 0x00 = 0x00

/-- The CRC-8 by its bit rule (R199: right shift, constant 0x8C, bit 0 of the byte first, the bytes of a buffer in order), with
two of the rule's values, and its linearity over GF(2) (R201 (c)). -/
def Obligations.CrcUpdateIsLinear : Prop :=
  (∀ (c : Byte) (b : Bool), (crc8Bit c b).toNat =
    if (c.toNat % 2 = 1) ↔ b = false then c.toNat / 2 ^^^ 0x8C else c.toNat / 2) ∧
  (∀ c v : Byte, crc8Upd c v =
    crc8Bit (crc8Bit (crc8Bit (crc8Bit (crc8Bit (crc8Bit (crc8Bit (crc8Bit c
      (v.getLsbD 0)) (v.getLsbD 1)) (v.getLsbD 2)) (v.getLsbD 3)) (v.getLsbD 4)) (v.getLsbD 5)) (v.getLsbD 6))
      (v.getLsbD 7)) ∧
  (∀ (v seed : Byte) (buf : List Byte),
    crc8Buf [] seed = seed ∧ crc8Buf (v :: buf) seed = crc8Buf buf (crc8Upd seed v)) ∧
  crc8Upd 0x00 0x01 = 0x5E ∧ crc8Buf [0xF0, 0x00, 0x00] 0x00 = 0x8D ∧
  ∀ a b v w : Byte, crc8Upd (a ^^^ b) (v ^^^ w) = crc8Upd a v ^^^ crc8Upd b w

/-- The CRC-16 by its bit rule (R197: right shift, constant 0xA001), bit 0 of the byte first and the bytes of a buffer in order
(R198), with four of the rules' values; and its round trip (R194, R195): the receiver folds the slots into what the sender's
bytes fold to, and the slots give each byte back. -/
def Obligations.CrcSixteenRoundTrip : Prop :=
  (∀ (acc : BitVec 16) (b : Bool), (crc16Bit acc b).toNat =
    if (acc.toNat % 2 = 1) ↔ b = false then acc.toNat / 2 ^^^ 0xA001 else acc.toNat / 2) ∧
  (∀ (acc : BitVec 16) (v : Byte), crc16Byte acc v =
    crc16Bit (crc16Bit (crc16Bit (crc16Bit (crc16Bit (crc16Bit (crc16Bit (crc16Bit acc
      (v.getLsbD 0)) (v.getLsbD 1)) (v.getLsbD 2)) (v.getLsbD 3)) (v.getLsbD 4)) (v.getLsbD 5)) (v.getLsbD 6))
      (v.getLsbD 7)) ∧
  (∀ (v : Byte) (buf : List Byte) (acc : BitVec 16),
    crc16Buf [] acc = acc ∧ crc16Buf (v :: buf) acc = crc16Buf buf (crc16Byte acc v)) ∧
  crc16Bit 0x0000 true = 0xA001 ∧ crc16Bit 0xA001 false = 0xF001 ∧ crc16Buf [0x01] 0x0000 = 0xC0C1 ∧
  crc16Buf [0xFF] 0x0000 = 0x4040 ∧
  (∀ (buf : List Byte) (acc : BitVec 16), crc16Slots (slotsOfBuf buf) acc = crc16Buf buf acc) ∧
  ∀ v : Byte, (slotsOf v).zipIdx.foldl (fun c p => setBit c p.2 p.1) 0x00 = v

/-! ### Over several ticks -/

/-- The presence pulse lasts exactly `PRESENCE_MIN` ticks whatever the master and the host do, the line is low at each of them, and
then the block releases it (R233, R163, R14). -/
def Obligations.PresencePulseLasts : Prop :=
  ∀ s : State, cfgOk s.cfg = true → s.phase = .presDrive → s.oe = true → s.cnt = (bounds s).presenceMin →
    (∀ k, k < s.cnt → (inputAt s k).rst = false) →
    (∀ k, k < s.cnt → ∃ t, Sys2Proof.core.run k s = .next t ∧ t.phase = .presDrive ∧ t.oe = true ∧
      lineLevel t = false) ∧
    ∃ t, Sys2Proof.core.run s.cnt s = .next t ∧ t.phase = .presRelease ∧ t.oe = false ∧
      t.cnt = (bounds s).presenceMax - (bounds s).presenceMin

/-- The line is low while the block drives it, whatever the master does, and otherwise is what the master leaves (R14). Hence the
received bit is 1 exactly when the master's low time `L`, the tick of the fall included, is at most `READ_MIN`
(R171, R174 (a)): from the tick after the fall, with the line pulled low for `L - 1` ticks and then released. -/
def Obligations.ReceivedBitByLowTime : Prop :=
  (∀ s : State, (s.oe = true → lineLevel s = false) ∧ (s.oe = false → lineLevel s = !(nextInput s).pull)) ∧
  ∀ (s : State) (L : Nat), cfgOk s.cfg = true → s.phase.isReceive = true → s.bt = .sample → s.oe = false → s.bit ≠ 7 →
    s.cnt = (bounds s).readMin → 1 ≤ L →
    (∀ k, k < (bounds s).readMin → (inputAt s k).rst = false ∧ (inputAt s k).pull = decide (k < L - 1)) →
    ∃ (n : Nat) (t : State), n = min L (bounds s).readMin ∧ Sys2Proof.core.run n s = .next t ∧
      t.phase = s.phase ∧ t.bt = .waitHigh ∧ t.bit = s.bit + 1 ∧
      ∀ j, j < 8 → t.byte.getLsbD j =
        if j = s.bit.toNat then decide (L ≤ (bounds s).readMin) else s.byte.getLsbD j
end

