-- ==== Sys2Proof/Laws/Memory.lean ====
section
/-! SUPPORT. The data memory: read after write, and every operation keeps the canonical form. -/

namespace Sys2Proof.Machine

theorem Memory.wfFrom_mono {lo lo' : Nat} (h : lo' ≤ lo) : ∀ {m : Memory}, Memory.wfFrom lo m = true → Memory.wfFrom lo' m = true
  | [], _ => rfl
  | (a, v) :: m, hm => by
    simp only [Memory.wfFrom, Bool.and_eq_true, decide_eq_true_eq] at hm ⊢
    exact ⟨⟨h.trans hm.1.1, hm.1.2⟩, hm.2⟩

/-- Below its first address a canonical memory lists nothing. -/
theorem Memory.read_below : ∀ {m : Memory} {lo i : Nat}, Memory.wfFrom lo m = true → i < lo → Memory.read m i = Memory.blank
  | [], _, _, _, _ => rfl
  | (a, v) :: m, lo, i, hm, hi => by
    simp only [Memory.wfFrom, Bool.and_eq_true, decide_eq_true_eq] at hm
    have hia : i ≠ a := by omega
    simp only [Memory.read, hia, if_false]
    exact Memory.read_below hm.2 (by omega)

/-- Writing keeps the canonical form. -/
theorem Memory.write_wfFrom : ∀ {m : Memory} {lo i : Nat} {v : Byte},
    Memory.wfFrom lo m = true → lo ≤ i → Memory.wfFrom lo (Memory.write m i v) = true
  | [], lo, i, v, _, hi => by
    by_cases hv : v = Memory.blank <;> simp [Memory.write, Memory.wfFrom, hv, hi]
  | (a, w) :: m, lo, i, v, hm, hi => by
    simp only [Memory.wfFrom, Bool.and_eq_true, decide_eq_true_eq] at hm
    obtain ⟨⟨ha, hw⟩, ht⟩ := hm
    unfold Memory.write
    split
    · rename_i hlt
      split
      · simp [Memory.wfFrom, ha, hw, ht]
      · rename_i hv
        simp [Memory.wfFrom, hi, hv, hw, ht]; omega
    · split
      · rename_i heq
        subst heq
        split
        · exact Memory.wfFrom_mono (by omega) ht
        · rename_i hv
          simp [Memory.wfFrom, hi, hv, ht]
      · simp only [Memory.wfFrom, Bool.and_eq_true, decide_eq_true_eq]
        exact ⟨⟨ha, hw⟩, Memory.write_wfFrom ht (by omega)⟩

/-- Writing keeps the canonical form. -/
theorem Memory.write_wf {m : Memory} {i : Nat} {v : Byte} (h : Memory.wf m = true) : Memory.wf (Memory.write m i v) = true :=
  Memory.write_wfFrom h (Nat.zero_le i)

/-- Writing below a bound lists nothing past it. -/
theorem Memory.write_below {n : Nat} : ∀ {m : Memory} {i : Nat} {v : Byte},
    Memory.below n m = true → i < n → Memory.below n (Memory.write m i v) = true
  | [], i, v, _, hi => by
    by_cases hv : v = Memory.blank <;> simp [Memory.write, Memory.below, hv, hi]
  | (a, w) :: m, i, v, hm, hi => by
    have hm' : a < n ∧ Memory.below n m = true := by simpa [Memory.below] using hm
    unfold Memory.write
    split
    · split
      · exact hm
      · simp only [Memory.below, List.all_cons, Bool.and_eq_true, decide_eq_true_eq]
        exact ⟨hi, hm'.1, hm'.2⟩
    · split
      · split
        · exact hm'.2
        · simp only [Memory.below, List.all_cons, Bool.and_eq_true, decide_eq_true_eq]
          exact ⟨hi, hm'.2⟩
      · simp only [Memory.below, List.all_cons, Bool.and_eq_true, decide_eq_true_eq]
        exact ⟨hm'.1, Memory.write_below hm'.2 hi⟩

/-- Read after write. -/
theorem Memory.read_write : ∀ {m : Memory} {lo i : Nat} {v : Byte} (j : Nat), Memory.wfFrom lo m = true →
    Memory.read (Memory.write m i v) j = if j = i then v else Memory.read m j
  | [], _, i, v, j, _ => by
    by_cases hv : v = Memory.blank <;> by_cases hj : j = i <;> simp [Memory.write, Memory.read, hv, hj]
  | (a, w) :: m, lo, i, v, j, hm => by
    simp only [Memory.wfFrom, Bool.and_eq_true, decide_eq_true_eq] at hm
    obtain ⟨_, ht⟩ := hm
    unfold Memory.write
    split
    · rename_i hlt
      split
      · rename_i hv
        by_cases hj : j = i
        · subst hj
          have : j ≠ a := by omega
          simp only [Memory.read, this, if_false, if_true, hv]
          exact Memory.read_below ht (by omega)
        · simp [hj]
      · simp [Memory.read]
    · split
      · rename_i heq
        subst heq
        by_cases hj : j = i
        · subst hj
          split
          · rename_i hv
            simp only [if_true, hv]
            exact Memory.read_below ht (by omega)
          · simp [Memory.read]
        · split <;> simp [Memory.read, hj]
      · rename_i hne1 hne2
        by_cases hj : j = a
        · subst hj
          have : j ≠ i := by omega
          simp [Memory.read, this]
        · simp only [Memory.read, hj, if_false]
          exact Memory.read_write j ht

/-- What a host write does to every address's byte (R87). -/
theorem memRead_memWrite {s : State} {i : Nat} {v : Byte} (h : Memory.wf s.mem = true) (j : Nat) :
    memRead (memWrite s i v) j = if j = i ∧ i < s.cfg.geometry.memSize then v else memRead s j := by
  unfold memRead memWrite
  by_cases hi : i < s.cfg.geometry.memSize
  · simp only [hi, if_true, and_true]
    rw [Memory.read_write j h]
    by_cases hj : j = i
    · simp [hj, hi]
    · simp [hj]
  · simp [hi]

/-- A host write keeps the canonical form and stays inside the array. -/
theorem memWrite_wf {s : State} {i : Nat} {v : Byte} (h : Memory.wf s.mem = true) : Memory.wf (memWrite s i v).mem = true := by
  unfold memWrite; split
  · exact Memory.write_wf h
  · exact h

theorem memWrite_below {s : State} {i : Nat} {v : Byte} (h : Memory.below s.cfg.geometry.memSize s.mem = true) :
    Memory.below s.cfg.geometry.memSize (memWrite s i v).mem = true := by
  unfold memWrite; split
  · exact Memory.write_below h ‹_›
  · exact h

/-- The reset memory is canonical. -/
theorem resetOf_mem_wf (c : Cfg) : Memory.wf (State.resetOf c).mem = true := rfl

/-! ### The status block -/

theorem statusGet_statusSet (s : State) (i : Nat) (v : Byte) (j : Nat) (hi : i < 8) :
    statusGet (statusSet s i v) j = if j = i then v else statusGet s j := by
  unfold statusGet statusSet
  by_cases hj : j < 8
  · simp only [hj, dif_pos, Vector.getElem_setIfInBounds]
    by_cases h : i = j
    · simp [h]
    · simp [h, Ne.symm h]
  · have : j ≠ i := by omega
    simp [hj, this]

theorem statusGet_congr {s t : State} (h : t.status = s.status) (i : Nat) : statusGet t i = statusGet s i := by
  unfold statusGet; rw [h]

end Sys2Proof.Machine
end

