-- ==== Sys2Proof/Laws/PerInstr.lean ====
section
/-! SUPPORT. Statements about every operation as syntax, one lemma per constructor. -/

namespace Sys2Proof.Laws

/-- An operation is encoded in as many bytes as its format has (R132). -/
def EncodeWidth.Statement (i : Instr) : Prop := (encode i).length = i.format.numBytes

theorem EncodeWidth.skipRom : EncodeWidth.Statement .skipRom := rfl
theorem EncodeWidth.busOther (cmd : Byte) : EncodeWidth.Statement (.busOther cmd) := rfl
theorem EncodeWidth.readMemory (ta1 ta2 : Byte) : EncodeWidth.Statement (.readMemory ta1 ta2) := rfl
theorem EncodeWidth.devOther (cmd ta1 ta2 : Byte) : EncodeWidth.Statement (.devOther cmd ta1 ta2) := rfl
theorem EncodeWidth.nop : EncodeWidth.Statement .nop := rfl
theorem EncodeWidth.poll : EncodeWidth.Statement .poll := rfl
theorem EncodeWidth.clearError : EncodeWidth.Statement .clearError := rfl
theorem EncodeWidth.attach : EncodeWidth.Statement .attach := rfl
theorem EncodeWidth.detach : EncodeWidth.Statement .detach := rfl
theorem EncodeWidth.setOd (a : Byte) : EncodeWidth.Statement (.setOd a) := rfl
theorem EncodeWidth.memWrite (a b : Byte) : EncodeWidth.Statement (.memWrite a b) := rfl
theorem EncodeWidth.memRead (a : Byte) : EncodeWidth.Statement (.memRead a) := rfl
theorem EncodeWidth.setPageUsed (a : Byte) : EncodeWidth.Statement (.setPageUsed a) := rfl
theorem EncodeWidth.setPageRedir (a b : Byte) : EncodeWidth.Statement (.setPageRedir a b) := rfl
theorem EncodeWidth.getPageRedir (a : Byte) : EncodeWidth.Statement (.getPageRedir a) := rfl
theorem EncodeWidth.clearStatus : EncodeWidth.Statement .clearStatus := rfl
theorem EncodeWidth.statusRead (a : Byte) : EncodeWidth.Statement (.statusRead a) := rfl
theorem EncodeWidth.translate (a : Byte) : EncodeWidth.Statement (.translate a) := rfl
theorem EncodeWidth.hostRsvd14 : EncodeWidth.Statement .hostRsvd14 := rfl
theorem EncodeWidth.hostRsvd15 : EncodeWidth.Statement .hostRsvd15 := rfl

end Sys2Proof.Laws
end

