-- ==== Sys2Proof/Laws/State.lean ====
section
/-! SUPPORT. The field lemmas of the state. For the record updates of Machine/Ops.lean, Operands.lean and DeviceCommands.lean
the attribute `simps` on the definition makes them (one lemma per field per update, by rfl, tagged simp: `startByte_phase`,
`raise_err`, `endCycle_oe`, ...); here are those of the updates that choose, and of the profile lookup. -/

namespace Sys2Proof.Machine

@[simp] theorem memWrite_cfg (s : State) (i : Nat) (v : Byte) : (memWrite s i v).cfg = s.cfg := by
  unfold memWrite; split <;> rfl
@[simp] theorem memWrite_phase (s : State) (i : Nat) (v : Byte) : (memWrite s i v).phase = s.phase := by
  unfold memWrite; split <;> rfl
@[simp] theorem memWrite_status (s : State) (i : Nat) (v : Byte) : (memWrite s i v).status = s.status := by
  unfold memWrite; split <;> rfl

@[simp] theorem startByte_bounds (ph : Phase) (v : Byte) (s : State) : bounds (startByte ph v s) = bounds s := rfl
@[simp] theorem countDown_bounds (s : State) : bounds (countDown s) = bounds s := rfl
@[simp] theorem afterInput_bounds (s : State) : bounds (afterInput s) = bounds s := rfl

@[simp] theorem storeBit_none (s : State) : storeBit none s = s := rfl

/-- A stored bit changes `byte` alone. -/
theorem storeBit_eq (v : Option Bool) (s : State) : storeBit v s = { s with byte := (storeBit v s).byte } := by
  cases v with
  | none => rfl
  | some b => unfold storeBit; dsimp only; split <;> rfl

/-- In a send phase no bit is stored. -/
theorem storeBit_send (v : Option Bool) (s : State) (h : s.phase.isReceive = false) : storeBit v s = s := by
  cases v <;> simp [storeBit, h]

/-- No phase is a send phase and a receive phase. -/
theorem Phase.not_send_and_receive (p : Phase) : ¬ (p.isSend = true ∧ p.isReceive = true) := by
  cases p <;> decide

end Sys2Proof.Machine
end

