-- ==== Sys2Proof/Laws/Step.lean ====
section
/-! SUPPORT. What one step can do, said once: the waits, the end of a slot, the bit engine, the sequencer, the step. Later proofs
cite these instead of unfolding the definitions. -/

namespace Sys2Proof.Machine

/-! ### The configuration check -/

theorem cfgRefusal_none {c : Cfg} (h : cfgOk c = true) : cfgRefusal c = none := by
  simp only [cfgOk, Bool.and_eq_true] at h
  simp [cfgRefusal, h.1, h.2]

theorem cfgRefusal_some {c : Cfg} (h : cfgOk c = false) : ∃ r, cfgRefusal c = some r := by
  unfold cfgRefusal
  split
  · exact ⟨_, rfl⟩
  · split
    · exact ⟨_, rfl⟩
    · simp_all [cfgOk]

theorem step_of_cfgOk {s : State} (h : cfgOk s.cfg = true) :
    step s = (tick (nextInput s) (lineLevel s) (afterInput s)).outcome := by
  simp [step, cfgRefusal_none h]

theorem cfgOk_of_step {s t : State} (h : step s = .next t) : cfgOk s.cfg = true := by
  cases hc : cfgOk s.cfg with
  | true => rfl
  | false =>
    obtain ⟨r, hr⟩ := cfgRefusal_some hc
    simp [step, hr] at h

/-! ### What a legal configuration gives (R7, R10) -/

theorem geometry_of_cfgOk {c : Cfg} (h : cfgOk c = true) :
    1 ≤ c.geometry.pageCount ∧ c.geometry.pageCount ≤ 4 ∧ 1 ≤ c.geometry.pageShift ∧ c.geometry.pageShift ≤ 7 ∧
    c.geometry.pageCount * 2 ^ c.geometry.pageShift ≤ 256 ∧ 1 ≤ c.geometry.memSize ∧
    c.geometry.memSize ≤ c.geometry.pageCount * 2 ^ c.geometry.pageShift := by
  simp only [cfgOk, geometryOk, Bool.and_eq_true, decide_eq_true_eq] at h
  obtain ⟨_, ⟨⟨⟨⟨⟨h1, h2⟩, h3⟩, h4⟩, h5⟩, h6⟩, h7⟩ := h
  exact ⟨h1, h2, h3, h4, h5, h6, h7⟩

theorem memSize_le_256 {c : Cfg} (h : cfgOk c = true) : c.geometry.memSize ≤ 256 := by
  have := geometry_of_cfgOk h; omega

/-- The constraints of R7 on the speed in force and on the shared bounds. -/
theorem profile_of_cfgOk {s : State} (h : cfgOk s.cfg = true) :
    (bounds s).writeZero < (bounds s).readMax ∧ (bounds s).slotMax + (bounds s).readMax < (bounds s).resetMin ∧
    (bounds s).resetMin < (bounds s).resetMax ∧ (bounds s).presenceMin < (bounds s).presenceMax ∧
    (bounds s).resetMax < s.cfg.profile.resetTimeout ∧
    (1 ≤ (bounds s).presenceDelay ∧ (bounds s).presenceDelay < 2 ^ s.cfg.cntW) ∧
    (1 ≤ (bounds s).presenceMin ∧ (bounds s).presenceMax < 2 ^ s.cfg.cntW) ∧
    (1 ≤ (bounds s).slotMax ∧ (bounds s).slotMax < 2 ^ s.cfg.cntW) ∧
    (1 ≤ (bounds s).writeZero ∧ (bounds s).writeZero < 2 ^ s.cfg.cntW) ∧
    (1 ≤ (bounds s).readMin ∧ (bounds s).readMin < 2 ^ s.cfg.cntW) ∧
    (1 ≤ (bounds s).readMax ∧ (bounds s).readMax < 2 ^ s.cfg.cntW) ∧
    (bounds s).slotMax + (bounds s).readMax < 2 ^ s.cfg.cntW ∧
    s.cfg.profile.resetTimeout < 2 ^ s.cfg.cntW ∧
    (1 ≤ s.cfg.profile.idleTimeout ∧ s.cfg.profile.idleTimeout < 2 ^ s.cfg.cntW) ∧
    (1 ≤ s.cfg.profile.highTimeout ∧ s.cfg.profile.highTimeout < 2 ^ s.cfg.cntW) ∧
    1 ≤ s.cfg.profile.settleMin := by
  simp only [cfgOk, profileOk, speedOk, Bool.and_eq_true, decide_eq_true_eq, List.all_cons, List.all_nil, and_true] at h
  unfold bounds
  split <;> (refine ⟨?_, ?_, ?_, ?_, ?_, ⟨?_, ?_⟩, ⟨?_, ?_⟩, ⟨?_, ?_⟩, ⟨?_, ?_⟩, ⟨?_, ?_⟩, ⟨?_, ?_⟩, ?_, ?_, ⟨?_, ?_⟩, ⟨?_, ?_⟩, ?_⟩ <;> omega)

/-! ### The waits -/

/-- The counter's next value while it is live (R161). -/
theorem countDown_of_live {s : State} (h : counterLive s) : countDown s = { s with cnt := s.cnt - 1 } := by
  obtain ⟨h1, h2⟩ := h
  have : counterValue s.cfg (s.cnt + (2 ^ s.cfg.cntW - 1)) = s.cnt - 1 := by
    unfold counterValue
    have hp : 0 < 2 ^ s.cfg.cntW := Nat.two_pow_pos _
    have e : s.cnt + (2 ^ s.cfg.cntW - 1) = (s.cnt - 1) + 2 ^ s.cfg.cntW := by omega
    rw [e, Nat.add_mod_right, Nat.mod_eq_of_lt (by omega)]
  unfold countDown; rw [this]

/-- A live counter reaches 0 at its last tick alone. -/
theorem cnt_eq_one_of_countDown {s : State} (h : counterLive s) (h0 : (countDown s).cnt = 0) : s.cnt = 1 := by
  rw [countDown_of_live h] at h0
  have h0' : s.cnt - 1 = 0 := h0
  have := h.1
  omega

theorem delayTick_cases (s : State) :
    (∃ t, delayTick s = .timeout t ∧ t = countDown s ∧ t.cnt = 0) ∨
    (∃ t, delayTick s = .stay t ∧ t = countDown s ∧ t.cnt ≠ 0) := by
  unfold delayTick
  split
  · exact .inl ⟨_, rfl, rfl, ‹_›⟩
  · exact .inr ⟨_, rfl, rfl, ‹_›⟩

/-- The last tick of a wait (R161, R162). -/
theorem delayTick_last {s : State} (h : counterLive s) (h1 : s.cnt = 1) : delayTick s = .timeout { s with cnt := 0 } := by
  simp [delayTick, countDown_of_live h, h1]

/-- Every earlier tick of a wait (R161, R162). -/
theorem delayTick_more {s : State} (h : counterLive s) (h1 : s.cnt ≠ 1) :
    delayTick s = .stay { s with cnt := s.cnt - 1 } := by
  have : ¬ s.cnt - 1 = 0 := by have := h.1; omega
  simp [delayTick, countDown_of_live h, this]

theorem waitWhile_seen {level x : Bool} (s : State) (h : x ≠ level) : waitWhile level x s = .seen s := by
  simp [waitWhile, h]

theorem waitWhile_level (level : Bool) (s : State) : waitWhile level level s = delayTick s := by
  simp [waitWhile]

/-! ### The end of a slot and the bit engine -/

/-- What the end of a slot comes to (R172): another slot of the byte, or the byte's end. -/
theorem bitDone_cases (v : Option Bool) (s : State) :
    (s.bit ≠ 7 ∧ bitDone v s =
      .move { storeBit v s with bit := s.bit + 1, bt := .waitHigh, cnt := (bounds s).slotMax }) ∨
    (s.bit = 7 ∧ bitDone v s = byteDone (storeBit v s)) := by
  have hb : (storeBit v s).bit = s.bit := by rw [storeBit_eq]
  have hbo : bounds (storeBit v s) = bounds s := by rw [storeBit_eq]; rfl
  unfold bitDone
  simp only [hb, hbo]
  split
  · exact .inr ⟨‹_›, rfl⟩
  · exact .inl ⟨‹_›, rfl⟩

theorem bitDone_more (v : Option Bool) {s : State} (h : s.bit ≠ 7) : bitDone v s =
    .move { storeBit v s with bit := s.bit + 1, bt := .waitHigh, cnt := (bounds s).slotMax } := by
  rcases bitDone_cases v s with ⟨_, e⟩ | ⟨h', _⟩
  · exact e
  · exact absurd h' h

theorem bitDone_last (v : Option Bool) {s : State} (h : s.bit = 7) : bitDone v s = byteDone (storeBit v s) := by
  rcases bitDone_cases v s with ⟨h', _⟩ | ⟨_, e⟩
  · exact absurd h h'
  · exact e

/-- Everything a tick of the bit engine can do (R166 to R172). -/
theorem bitEngine_cases (x : Bool) (s : State) :
    (s.bt = .waitHigh ∧ x = true ∧
      bitEngine x s = .move { s with bt := .waitFall, cnt := s.cfg.profile.highTimeout }) ∨
    (s.bt = .waitHigh ∧ x = false ∧ (countDown s).cnt = 0 ∧ bitEngine x s = .move (resetInProgress (countDown s))) ∨
    (s.bt = .waitFall ∧ x = false ∧ bitEngine x s = .move (slotStart s)) ∨
    (s.bt = .waitFall ∧ x = true ∧ (countDown s).cnt = 0 ∧
      bitEngine x s = .move (raise (slotTimeoutError s) (countDown s))) ∨
    (s.bt = .sample ∧ x = true ∧ bitEngine x s = bitDone (some true) s) ∨
    (s.bt = .sample ∧ x = false ∧ (countDown s).cnt = 0 ∧ bitEngine x s = bitDone (some false) (countDown s)) ∨
    (s.bt = .drive ∧ (countDown s).cnt = 0 ∧ bitEngine x s = bitDone none { countDown s with oe := false }) ∨
    (s.bt = .hold ∧ (countDown s).cnt = 0 ∧ bitEngine x s = bitDone none (countDown s)) ∨
    ((countDown s).cnt ≠ 0 ∧ bitEngine x s = .move (countDown s)) := by
  unfold bitEngine
  rcases delayTick_cases s with ⟨t, ht, rfl, h0⟩ | ⟨t, ht, rfl, h0⟩ <;>
  cases hbt : s.bt <;> cases x <;> simp [waitWhile, ht, slotTimeoutError] <;> simp_all

/-! ### The step -/

/-- Everything a step that goes on can do. -/
theorem step_cases {s t : State} (h : step s = .next t) :
    cfgOk s.cfg = true ∧
    (((nextInput s).rst = true ∧ t = resetTick (afterInput s)) ∨
     ((nextInput s).rst = false ∧ s.phase = .idle ∧ (nextInput s).hValid = true ∧
        exec (decodeHost (nextInput s).hOp (nextInput s).hA (nextInput s).hB) (afterInput s) = .next t) ∨
     ((nextInput s).rst = false ∧ s.phase = .idle ∧ (nextInput s).hValid = false ∧ t = afterInput s) ∨
     ((nextInput s).rst = false ∧ s.phase ≠ .idle ∧
        (sequencer (lineLevel s) (afterInput s)).outcome = .next t)) := by
  have hc := cfgOk_of_step h
  refine ⟨hc, ?_⟩
  rw [step_of_cfgOk hc] at h
  unfold tick at h
  split at h
  · exact .inl ⟨‹_›, by simpa [Action.outcome] using h.symm⟩
  · rename_i hr
    have hr' : (nextInput s).rst = false := by simpa using hr
    split at h
    · rename_i hp
      have hp' : s.phase = .idle := hp
      split at h
      · exact .inr (.inl ⟨hr', hp', ‹_›, h⟩)
      · rename_i hv
        exact .inr (.inr (.inl ⟨hr', hp', by simpa using hv, by simpa [Action.outcome] using h.symm⟩))
    · rename_i hp
      exact .inr (.inr (.inr ⟨hr', hp, h⟩))

/-- An ordinary tick of a running cycle is the sequencer's transition (R37). -/
theorem step_busy {s : State} {x : Bool} (h : Ticking s x) (hp : s.phase ≠ .idle) :
    step s = (sequencer x (afterInput s)).outcome := by
  rw [step_of_cfgOk h.cfg, h.line]
  have : (afterInput s).phase ≠ .idle := hp
  simp [tick, h.noRst, hp]

/-- In a byte phase the sequencer is the bit engine (R35). -/
theorem sequencer_byte {x : Bool} {s : State} (h : s.phase.isByte = true) : sequencer x s = bitEngine x s := by
  unfold sequencer
  cases hp : s.phase <;> simp_all [Phase.isByte, Phase.isSend, Phase.isReceive]

/-! ### Several steps -/

/-- A run goes on from the step's next state. -/
theorem run_of_next (M : Host.Core) {s t : M.State} {n : Nat} (h : M.step s = .next t) : M.run (n + 1) s = M.run n t := by
  simp only [Host.Core.run, h]

theorem inputAt_zero (s : State) : inputAt s 0 = nextInput s := by
  unfold inputAt nextInput; cases s.inputs <;> simp

/-- The stimulus moves on by one tick per step. -/
theorem inputAt_succ (s : State) (k : Nat) : inputAt s (k + 1) = inputAt (afterInput s) k := by
  have e : s.now + (k + 1) = s.now + 1 + k := by omega
  unfold inputAt
  simp [List.getElem?_tail, e]

end Sys2Proof.Machine
end

