-- ==== Sys2Proof/Machine/Script.lean ====
section
/-! DEFINITION. The master-script notation of spec/30_encoding.md R131 and host stimulus, as the inputs a state lists. It describes
the environment; no rule of the block reads it. -/

namespace Sys2Proof.Machine

/-- The slot constants `(L1, L0, S, K)` of a script (R131). -/
structure SlotConsts where
  l1 : Nat
  l0 : Nat
  s : Nat
  k : Nat
  deriving DecidableEq, Repr

/-- The items of a script (R131); `rbyte` and `wbyte` are the pseudo-items. -/
inductive ScriptItem where
  | idle (n : Nat)
  | low (n : Nat)
  | reset (d : Nat)
  | slot (l s : Nat)
  | w1
  | w0
  | rd
  | wbyte (x : Byte)
  | rbyte
  deriving DecidableEq, Repr

/-- One slot of `s` ticks with a low time of `l` (R131). -/
def slotPulls (l s : Nat) : List Bool := List.replicate l true ++ List.replicate (s - l) false

/-- A write slot of one bit (R131). -/
def writeSlot (c : SlotConsts) (b : Bool) : List Bool := slotPulls (if b then c.l1 else c.l0) c.s

/-- The expansion of an item: `m_pull` per tick (R131). -/
def ScriptItem.pulls (c : SlotConsts) : ScriptItem → List Bool
  | .idle n => List.replicate n false
  | .low n => List.replicate n true
  | .reset d => List.replicate d true
  | .slot l s => slotPulls l s
  | .w1 => writeSlot c true
  | .w0 => writeSlot c false
  | .rd => slotPulls c.l1 c.s
  | .wbyte x => (List.range 8).flatMap (fun i => writeSlot c (x.getLsbD i))
  | .rbyte => (List.range 8).flatMap (fun _ => slotPulls c.l1 c.s)

/-- The `m_pull` bit string of a script: its encoding (R131). -/
def scriptPulls (c : SlotConsts) (items : List ScriptItem) : List Bool := items.flatMap (ScriptItem.pulls c)

/-- A host operation presented at a tick, `@t OP(a, b)` (R131). -/
structure HostAt where
  t : Nat
  op : BitVec 4
  a : Byte
  b : Byte
  deriving DecidableEq, Repr

/-- The inputs of tick `t` of a script. -/
def scriptInput (host : List HostAt) (t : Nat) (pull : Bool) : TickIn :=
  match host.find? (fun h => h.t == t) with
  | some h => ⟨false, pull, true, h.op, h.a, h.b⟩
  | none => ⟨false, pull, false, 0, 0, 0⟩

/-- The inputs of a whole script from tick 0 with its host stimulus. -/
def scriptInputs (host : List HostAt) (pulls : List Bool) : List TickIn :=
  pulls.zipIdx.map (fun p => scriptInput host p.2 p.1)

end Sys2Proof.Machine
end

