-- ==== Sys2Proof/Tests/Slice0.lean ====
section
/-! SUPPORT. The model's own tests. Expected values are the spec's: spec/95_test_vectors.md (E.., V-..), or the tables of
spec/30_encoding.md. `witness_...` theorems show states and operands that meet the hypotheses of the statement they name. -/

namespace Sys2Proof.Tests

open Sys2Proof Sys2Proof.Machine

/-! ### Helpers -/

/-- The inputs of a tick in which only the line is driven. -/
def quietInput (pull : Bool) : TickIn := ⟨false, pull, false, 0, 0, 0⟩

/-- The inputs of a tick with a host operation. -/
def hostTick (op : BitVec 4) (a b : Byte) : TickIn := ⟨false, false, true, op, a, b⟩

/-- A running cycle whose next line sample is `x` (while the block does not drive). -/
def mid (ph : Phase) (bt : BitState) (bit : BitVec 3) (cnt : Nat) (x : Bool) : State :=
  { State.reset with attached := true, phase := ph, bt := bt, bit := bit, cnt := cnt, inputs := [quietInput (!x)] }

/-- A state of another geometry. -/
def withGeometry (g : Geometry) (s : State) : State := { s with cfg := { s.cfg with geometry := g } }

/-- The geometry of the V-ST vectors: four pages of four bytes. -/
def gFour : Geometry := ⟨16, 2, 4⟩

/-- The next state of an outcome. -/
def nextOf (o : Host.Outcome State Fault Refusal) : Option State :=
  match o with
  | .next t => some t
  | .fault _ => none
  | .refused _ => none

/-- `P_TINY` with a changed normal speed. -/
def withNormal (f : SpeedBounds → SpeedBounds) : Cfg :=
  { Config.reference with profile := { Config.pTiny with normal := f Config.pTiny.normal } }

/-! ### WellFormed: an ill-formed term for each check -/

theorem test_wf_refuses_busOther_of_skipRom : Instr.wf (.busOther 0xCC) = false := by decide
theorem test_wf_refuses_devOther_of_readMemory : Instr.wf (.devOther 0xF0 0x00 0x00) = false := by decide
theorem test_wf_takes_neighbours : Instr.wf (.busOther 0xCB) = true ∧ Instr.wf (.devOther 0xF1 0x00 0x00) = true := by decide

/-! ### Configurations: R19 passes; each clause of R7 and R10 refuses -/

theorem test_reference_ok : cfgOk Config.reference = true := by decide +kernel
/-- The illustrative profile P_REF of spec/93_implementation_defined.md. -/
theorem test_profile_pRef :
    profileOk { Config.reference with
      profile := ⟨5000, 5000, 15000, 120, ⟨430, 960, 20, 160, 480, 135, 30, 20, 60⟩, ⟨48, 80, 20, 8, 32, 30, 8, 4, 10⟩⟩ } =
        true := by decide +kernel
theorem test_profile_e9 : profileOk (withNormal (fun b => { b with resetMin := 9 })) = false := by decide +kernel
theorem test_profile_readMax : profileOk (withNormal (fun b => { b with readMax := 3 })) = false := by decide +kernel
theorem test_profile_resetMax : profileOk (withNormal (fun b => { b with resetMax := 12 })) = false := by decide +kernel
theorem test_profile_presenceMax : profileOk (withNormal (fun b => { b with presenceMax := 4 })) = false := by decide +kernel
theorem test_profile_zero : profileOk (withNormal (fun b => { b with presenceDelay := 0 })) = false := by decide +kernel
theorem test_profile_resetTimeout :
    profileOk { Config.reference with profile := { Config.pTiny with resetTimeout := 20 } } = false := by decide +kernel
theorem test_profile_speeds_ordered :
    profileOk { Config.reference with
      profile := { Config.pTiny with overdrive := ⟨13, 20, 1, 2, 4, 3, 1, 1, 2⟩ } } = false := by decide +kernel
theorem test_profile_width : profileOk { Config.reference with cntW := 5 } = false := by decide +kernel
theorem test_geometry_pages : geometryOk ⟨44, 6, 0⟩ = false ∧ geometryOk ⟨16, 2, 5⟩ = false := by decide
theorem test_geometry_shift : geometryOk ⟨1, 0, 1⟩ = false ∧ geometryOk ⟨44, 8, 1⟩ = false := by decide
theorem test_geometry_span : geometryOk ⟨44, 7, 3⟩ = false := by decide
theorem test_geometry_size : geometryOk ⟨0, 6, 1⟩ = false ∧ geometryOk ⟨65, 6, 1⟩ = false := by decide

/-! ### Decoding: one word per constructor, written out from spec/30_encoding.md -/

theorem test_decode_skipRom : decode .bus8 [0b11001100] = .ok .skipRom := by rfl
theorem test_decode_busOther : decode .bus8 [0b00110011] = .ok (.busOther 0x33) := by rfl
theorem test_decode_readMemory : decode .dev24 [0b11110000, 0x2B, 0x01] = .ok (.readMemory 0x2B 0x01) := by rfl
theorem test_decode_devOther : decode .dev24 [0xAA, 0x01, 0x02] = .ok (.devOther 0xAA 0x01 0x02) := by rfl
theorem test_decode_nop : decode .host20 [0xA0, 0xCB, 0x0D] = .ok .nop := by rfl
theorem test_decode_poll : decode .host20 [0x01, 0x00, 0x00] = .ok .poll := by rfl
theorem test_decode_clearError : decode .host20 [0x02, 0x00, 0x00] = .ok .clearError := by rfl
theorem test_decode_attach : decode .host20 [0x03, 0x00, 0x00] = .ok .attach := by rfl
theorem test_decode_detach : decode .host20 [0x04, 0x00, 0x00] = .ok .detach := by rfl
theorem test_decode_setOd : decode .host20 [0x15, 0x00, 0x00] = .ok (.setOd 0x01) := by rfl
theorem test_decode_memWrite : decode .host20 [0xB6, 0x02, 0x03] = .ok (.memWrite 0x2B 0x30) := by rfl
theorem test_decode_memRead : decode .host20 [0xB7, 0x02, 0x00] = .ok (.memRead 0x2B) := by rfl
theorem test_decode_setPageUsed : decode .host20 [0x28, 0x00, 0x00] = .ok (.setPageUsed 0x02) := by rfl
theorem test_decode_setPageRedir : decode .host20 [0x19, 0x30, 0x00] = .ok (.setPageRedir 0x01 0x03) := by rfl
theorem test_decode_getPageRedir : decode .host20 [0x1A, 0x00, 0x00] = .ok (.getPageRedir 0x01) := by rfl
theorem test_decode_clearStatus : decode .host20 [0x0B, 0x00, 0x00] = .ok .clearStatus := by rfl
theorem test_decode_statusRead : decode .host20 [0x7C, 0x00, 0x00] = .ok (.statusRead 0x07) := by rfl
theorem test_decode_translate : decode .host20 [0x0D, 0x04, 0x00] = .ok (.translate 0x40) := by rfl
theorem test_decode_hostRsvd14 : decode .host20 [0x0E, 0x00, 0x00] = .ok .hostRsvd14 := by rfl
theorem test_decode_hostRsvd15 : decode .host20 [0xFF, 0xFF, 0x0F] = .ok .hostRsvd15 := by rfl
theorem test_decode_padding : decode .host20 [0x00, 0x00, 0x10] = .error .hostPadding := by rfl
theorem test_decode_length : decode .bus8 [] = .error .wrongLength ∧ decode .dev24 [0xF0] = .error .wrongLength := ⟨rfl, rfl⟩

theorem test_table_skipRom : decodeTableWord 8 0xCC = some .skipRom := by rfl
theorem test_table_readMemory : decodeTableWord 24 0x0000F0 = some (.readMemory 0x00 0x00) := by rfl
theorem test_table_memWrite : decodeTableWord 20 0x302B6 = some (.memWrite 0x2B 0x30) := by rfl
theorem test_table_devOther : decodeTableWord 24 0x2211AA = some (.devOther 0xAA 0x11 0x22) := by rfl

/-! ### A word placed for the next tick runs in it -/

theorem test_fetch_poll_unattached :
    (nextOf (step (State.reset.withFetchWord 20 0x00001))).map (fun t => (t.phase, t.port)) =
      some (.idle, ⟨true, false, 0x00⟩) := by decide
theorem test_fetch_skipRom :
    (nextOf (step (State.reset.withFetchWord 8 0xCC))).map (fun t => (t.phase, t.bt, t.cnt)) =
      some (.dRxCmd, .waitHigh, 5) := by decide
theorem test_fetch_readMemory :
    (nextOf (step (State.reset.withFetchWord 24 0x0000F0))).map (fun t => (t.phase, t.byte)) =
      some (.dTxCrc1, 0x8D) := by decide +kernel

/-! ### Checksums (V-CRC) -/

theorem test_crc8_read_command : crc8Buf [0xF0, 0x00, 0x00] 0x00 = 0x8D := by decide +kernel
theorem test_crc8_identity : crc8Buf [0x09, 0x01, 0x02, 0x03, 0x04, 0x05, 0x06] 0x00 = 0x4C := by decide +kernel
theorem test_crc8_digits : crc8Buf [0x31, 0x32, 0x33, 0x34, 0x35, 0x36, 0x37, 0x38, 0x39] 0x00 = 0xA1 := by decide +kernel
theorem test_crc16_read_command : crc16Buf [0xF0, 0x00, 0x00] 0x0000 = 0x3300 := by decide +kernel
theorem test_crc16_digits :
    crc16Buf [0x31, 0x32, 0x33, 0x34, 0x35, 0x36, 0x37, 0x38, 0x39] 0x0000 = 0xBB3D := by decide +kernel
theorem test_slot_order : slotsOf 0xCC = [false, false, true, true, false, false, true, true] := by decide

/-! ### One step of each operation -/

/-- E8: the other bus-layer byte. -/
theorem test_busOther :
    (nextOf (exec (.busOther 0x33) (mid .rxCmd .sample 7 1 false))).map
      (fun t => (t.phase, t.err.code, t.errCmd, t.dispatched, t.bit)) = some (.idle, 6, 0x33, false, 0) := by decide
/-- E8, second reading: crc8 of 33 00 00 is 3A. -/
theorem test_devOther :
    (nextOf (exec (.devOther 0x33 0x00 0x00) { mid .dRxTa2 .sample 7 1 false with crc8 := crc8Buf [0x33, 0x00] 0x00 })).map
      (fun t => (t.phase, t.err, t.dispatched, t.dcmd, t.crc8)) = some (.idle, .noError, true, 0x33, 0x3A) := by decide +kernel
/-- R275: crc8 of F0 00 01 is D3. -/
theorem test_readMemory_high_address :
    (nextOf (exec (.readMemory 0x00 0x01) { mid .dRxTa2 .sample 7 1 false with crc8 := crc8Buf [0xF0, 0x00] 0x00 })).map
      (fun t => (t.phase, t.err, t.dispatched, t.oe, t.crc8)) = some (.idle, .noError, true, false, 0xD3) := by decide +kernel
/-- V-CRC: crc8 of F0 2B 00 is 6F. -/
theorem test_readMemory_last_byte :
    (nextOf (exec (.readMemory 0x2B 0x00) { mid .dRxTa2 .sample 7 1 false with crc8 := crc8Buf [0xF0, 0x2B] 0x00 })).map
      (fun t => (t.phase, t.byte, t.bit, t.cnt)) = some (.dTxCrc1, 0x6F, 0, 5) := by decide +kernel
/-- V-BSM-2: `S(1).cnt = 40`. -/
theorem test_poll :
    (nextOf (exec .poll { State.reset with attached := true, err := .veryLongReset, dispatched := true })).map
      (fun t => (t.phase, t.cnt, t.hi, t.err, t.dispatched)) = some (.waitReset, 40, 0, .noError, false) := by decide
/-- R318 at the edge of the array. -/
theorem test_memWrite_edges :
    (nextOf (exec (.memWrite 0x2B 0x30) State.reset)).map (fun t => (t.mem, t.port.ok)) = some ([(43, 0x30)], true) ∧
    (nextOf (exec (.memWrite 0x2C 0x30) State.reset)).map (fun t => (t.mem, t.port.ok)) = some ([], false) := by decide
/-- Writing the blank value removes the cell. -/
theorem test_memWrite_blank :
    (nextOf (exec (.memWrite 0x2B 0xFF) { State.reset with mem := [(43, 0x30)] })).map (fun t => t.mem) = some [] := by
  decide
/-- R319 at the edge of the array. -/
theorem test_memRead_edges :
    (nextOf (exec (.memRead 0x2B) { State.reset with mem := [(43, 0x30)] })).map (fun t => t.port) =
      some ⟨true, true, 0x30⟩ ∧
    (nextOf (exec (.memRead 0x2C) State.reset)).map (fun t => t.port) = some ⟨true, false, 0xFF⟩ := by decide
/-- R283: page 1 clears bit 5. -/
theorem test_setPageUsed :
    (nextOf (exec (.setPageUsed 0x01) (withGeometry gFour State.reset))).map (fun t => (t.status, t.port.ok)) =
      some (#v[0xDF, 0xFF, 0xFF, 0xFF, 0xFF, 0xFF, 0xFF, 0x00], true) := by decide
/-- E5: page 1 redirected to page 3 stores FC in `status[2]`. -/
theorem test_setPageRedir :
    (nextOf (exec (.setPageRedir 0x01 0x03) (withGeometry gFour State.reset))).map (fun t => (t.status, t.port.ok)) =
      some (#v[0xFF, 0xFF, 0xFC, 0xFF, 0xFF, 0xFF, 0xFF, 0x00], true) := by decide
/-- E4: out of range in `G_REF`. -/
theorem test_setPageRedir_out_of_range :
    (nextOf (exec (.setPageRedir 0x00 0x01) State.reset)).map (fun t => (t.status, t.port.ok)) =
      some (statusInit, false) := by decide
/-- E4: the getter complements. -/
theorem test_getPageRedir :
    (nextOf (exec (.getPageRedir 0x01)
      { withGeometry gFour State.reset with status := #v[0xFF, 0xFF, 0xFC, 0xFF, 0xFF, 0xFF, 0xFF, 0x00] })).map
        (fun t => t.port) = some ⟨true, true, 0x03⟩ := by decide
/-- E5: `translate(5) = 13`. -/
theorem test_translate_redirected :
    (nextOf (exec (.translate 0x05)
      { withGeometry gFour State.reset with status := #v[0xFF, 0xFF, 0xFC, 0xFF, 0xFF, 0xFF, 0xFF, 0x00] })).map
        (fun t => t.port) = some ⟨true, true, 0x0D⟩ := by decide
/-- E5: `TRANSLATE(0x40) = 0x40`. -/
theorem test_translate_plain :
    (nextOf (exec (.translate 0x40) State.reset)).map (fun t => t.port) = some ⟨true, true, 0x40⟩ := by decide
/-- R324 at the edge of the block. -/
theorem test_statusRead_edges :
    (nextOf (exec (.statusRead 0x07) State.reset)).map (fun t => t.port) = some ⟨true, true, 0x00⟩ ∧
    (nextOf (exec (.statusRead 0x08) State.reset)).map (fun t => t.port) = some ⟨true, false, 0x00⟩ := by decide
/-- R317: bits 7:1 are ignored. -/
theorem test_setOd :
    (nextOf (exec (.setOd 0xFE) { State.reset with od := true })).map (fun t => t.od) = some false ∧
    (nextOf (exec (.setOd 0x01) State.reset)).map (fun t => t.od) = some true := by decide
/-- R315, R316. -/
theorem test_attach_detach :
    (nextOf (exec .attach State.reset)).map (fun t => (t.attached, t.port.ok)) = some (true, true) ∧
    (nextOf (exec .detach State.reset)).map (fun t => (t.attached, t.port.ok)) = some (false, false) := by decide
/-- R314 keeps `err_cmd`. -/
theorem test_clearError :
    (nextOf (exec .clearError { State.reset with err := .incorrectOnewireCmd, errCmd := 0x33 })).map
      (fun t => (t.err, t.errCmd)) = some (.noError, 0x33) := by decide
/-- R311: turned away in a running cycle. -/
theorem test_host_busy :
    (nextOf (exec (.memWrite 0x00 0x00) (mid .waitReset .waitHigh 0 40 true))).map (fun t => (t.mem, t.port)) =
      some ([], ⟨false, false, 0x00⟩) := by decide

/-! ### One tick of the sequencer -/

/-- E1: the 30th low sample. -/
theorem test_very_long_reset :
    (nextOf (step { mid .confirmReset .waitHigh 0 0 false with low := 29 })).map (fun t => (t.phase, t.err, t.low)) =
      some (.idle, .veryLongReset, 30) := by decide
/-- E1: 11 is ignored, 12 is valid. -/
theorem test_reset_min :
    (nextOf (step { mid .confirmReset .waitHigh 0 0 true with low := 11 })).map (fun t => t.phase) = some .waitReset ∧
    (nextOf (step { mid .confirmReset .waitHigh 0 0 true with low := 12 })).map (fun t => t.phase) = some .presDelay := by
  decide
/-- V-BSM-5: overdrive falls back at 12 and not at 11. -/
theorem test_overdrive_fallback :
    (nextOf (step { mid .confirmReset .waitHigh 0 0 true with low := 11, od := true })).map (fun t => (t.od, t.cnt)) =
      some (true, 1) ∧
    (nextOf (step { mid .confirmReset .waitHigh 0 0 true with low := 12, od := true })).map (fun t => (t.od, t.cnt)) =
      some (false, 2) := by decide
/-- V-BT-1: the fifth low sample after the slot ends it as a reset in progress, credited with 9. -/
theorem test_reset_in_progress :
    (nextOf (step (mid .rxCmd .waitHigh 1 1 false))).map (fun t => (t.phase, t.low, t.err)) =
      some (.confirmReset, 9, .noError) := by decide
/-- V-BT-4: at a byte boundary the timeout is code 5, inside a byte code 4. -/
theorem test_slot_timeouts :
    (nextOf (step (mid .rxCmd .waitFall 0 1 true))).map (fun t => t.err.code) = some 5 ∧
    (nextOf (step (mid .rxCmd .waitFall 3 1 true))).map (fun t => (t.err.code, t.bit)) = some (4, 0) := by decide
/-- V-BT-3: a 0 is driven for 3 ticks, a 1 is held for 4. -/
theorem test_send_slots :
    (nextOf (step { mid .dTxCrc1 .waitFall 1 5 false with byte := 0x8D })).map (fun t => (t.bt, t.oe, t.cnt)) =
      some (.drive, true, 3) ∧
    (nextOf (step { mid .dTxCrc1 .waitFall 0 5 false with byte := 0x8D })).map (fun t => (t.bt, t.oe, t.cnt)) =
      some (.hold, false, 4) := by decide
/-- E6: past the end of memory the CRC of no data is sent. -/
theorem test_read_past_end :
    (nextOf (step { mid .dTxCrc1 .hold 7 1 true with byte := 0x01, ta1 := 0x2C })).map
      (fun t => (t.phase, t.byte, t.addr)) = some (.dTxCrc2, 0x00, 0x2C) := by decide
/-- R390. -/
theorem test_reset_input :
    (nextOf (step { mid .dTxData .drive 3 2 true with oe := true, inputs := [⟨true, true, true, 6, 0, 0⟩] })).map
      (fun t => (t.phase, t.oe, t.attached)) = some (.idle, false, false) := by decide
/-- U13. -/
theorem test_illegal_profile_refused :
    step { State.reset with cfg := withNormal (fun b => { b with resetMin := 9 }) } = .refused .illFormedProfile := by rfl
/-- U14. -/
theorem test_illegal_geometry_refused : step (withGeometry ⟨65, 6, 1⟩ State.reset) = .refused .illFormedGeometry := by rfl
/-- R131: a slot of 8 ticks with a low time of 6. -/
theorem test_script_w0 : ScriptItem.pulls ⟨1, 6, 8, 2⟩ .w0 = [true, true, true, true, true, true, false, false] := by decide

/-! ### Witnesses: the hypotheses of each statement can be met, each clause at the edge of its range -/

theorem ticking_mid {s : State} {x : Bool} (h1 : s.cfg = Config.reference) (h2 : (nextInput s).rst = false)
    (h3 : lineLevel s = x) : Ticking s x := ⟨by rw [h1]; exact test_reference_ok, h2, h3⟩

theorem witness_DecodeOfEncode : Instr.wf (.busOther 0xCD) = true ∧ Instr.wf (.memWrite 0xFF 0xFF) = true := by decide
theorem witness_EncodeOfDecode : decode .host20 [0x10, 0x00, 0x00] = .ok .nop ∧ decode .bus8 [0xCD] = .ok (.busOther 0xCD) :=
  ⟨rfl, rfl⟩
theorem witness_StepRunsHostOperation :
    let s : State := { State.reset with inputs := [hostTick 6 0x2B 0x30] }
    cfgOk s.cfg = true ∧ (nextInput s).rst = false ∧ s.phase = .idle ∧ (nextInput s).hValid = true := by decide
theorem witness_StepRunsBusCommand_one :
    let s := mid .rxCmd .sample 7 2 true
    Ticking s true ∧ counterLive s ∧ s.phase = .rxCmd ∧ s.bt = .sample ∧ s.bit = 7 ∧ (true = true ∨ s.cnt = 1) :=
  ⟨ticking_mid rfl rfl rfl, by unfold counterLive; decide, rfl, rfl, rfl, .inl rfl⟩
theorem witness_StepRunsBusCommand_zero :
    let s := mid .rxCmd .sample 7 1 false
    Ticking s false ∧ counterLive s ∧ s.phase = .rxCmd ∧ s.bt = .sample ∧ s.bit = 7 ∧ (false = true ∨ s.cnt = 1) :=
  ⟨ticking_mid rfl rfl rfl, by unfold counterLive; decide, rfl, rfl, rfl, .inr rfl⟩
theorem witness_StepRunsDeviceCommand_one :
    let s := { mid .dRxTa2 .sample 7 2 true with dcmd := 0xF0 }
    Ticking s true ∧ counterLive s ∧ s.phase = .dRxTa2 ∧ s.bt = .sample ∧ s.bit = 7 ∧ (true = true ∨ s.cnt = 1) :=
  ⟨ticking_mid rfl rfl rfl, by unfold counterLive; decide, rfl, rfl, rfl, .inl rfl⟩
theorem witness_StepRunsDeviceCommand_zero :
    let s := { mid .dRxTa2 .sample 7 1 false with dcmd := 0xF0 }
    Ticking s false ∧ counterLive s ∧ s.phase = .dRxTa2 ∧ s.bt = .sample ∧ s.bit = 7 ∧ (false = true ∨ s.cnt = 1) :=
  ⟨ticking_mid rfl rfl rfl, by unfold counterLive; decide, rfl, rfl, rfl, .inr rfl⟩
theorem witness_ReadMemoryRejectsHighAddress : (0x01 : Byte) ≠ 0x00 := by decide

/-- For every statement whose one hypothesis is an idle state: NOP, CLEAR_ERROR, SET_OD, CLEAR_STATUS, TRANSLATE. -/
theorem witness_idle_operations : State.reset.phase = .idle := rfl
theorem witness_PollStartsCycle_AttachTakesTheSlot_DetachFreesTheSlot :
    (State.reset.phase = .idle ∧ State.reset.attached = false) ∧
    ({ State.reset with attached := true } : State).phase = .idle := ⟨⟨rfl, rfl⟩, rfl⟩
theorem witness_MemWriteStoresOneByte :
    let s : State := { State.reset with mem := [(0, 0x03), (43, 0x30)] }
    s.phase = .idle ∧ Memory.wf s.mem = true ∧ (0x2B : Byte).toNat < s.cfg.geometry.memSize ∧
      s.cfg.geometry.memSize ≤ (0x2C : Byte).toNat := by decide
theorem witness_MemReadReturnsTheByte :
    let s : State := State.reset
    s.phase = .idle ∧ (0x2B : Byte).toNat < s.cfg.geometry.memSize ∧ s.cfg.geometry.memSize ≤ (0x2C : Byte).toNat := by
  decide
theorem witness_SetPageUsedClearsOneBit_GetPageRedirComplements :
    let s : State := withGeometry gFour State.reset
    s.phase = .idle ∧ (0x03 : Byte).toNat < s.cfg.geometry.pageCount ∧ s.cfg.geometry.pageCount ≤ (0x04 : Byte).toNat := by
  decide
theorem witness_SetPageRedirWritesOneByte :
    let s : State := withGeometry gFour State.reset
    s.phase = .idle ∧ s.cfg.geometry.pageCount ≤ 4 ∧
      ((0x03 : Byte).toNat < s.cfg.geometry.pageCount ∧ (0x02 : Byte).toNat < s.cfg.geometry.pageCount) ∧
      ¬((0x03 : Byte).toNat < s.cfg.geometry.pageCount ∧ (0x04 : Byte).toNat < s.cfg.geometry.pageCount) := by decide
theorem witness_RedirectionRoundTrip :
    let s : State := withGeometry gFour State.reset
    s.phase = .idle ∧ s.cfg.geometry.pageCount ≤ 4 ∧ (0x01 : Byte).toNat < s.cfg.geometry.pageCount ∧
      (0x03 : Byte).toNat < s.cfg.geometry.pageCount := by decide
theorem witness_StatusReadReturnsTheByte :
    State.reset.phase = .idle ∧ (0x07 : Byte).toNat ≤ 7 ∧ 7 < (0x08 : Byte).toNat := by decide
/-- Page 1 is redirected, page 2 is not, page 4 has no byte. -/
theorem witness_TranslationFollowsTheTable :
    let s : State := { withGeometry gFour State.reset with status := #v[0xFF, 0xFF, 0xFC, 0xFF, 0xFF, 0xFF, 0xFF, 0x00] }
    (3 < 16 / 2 ^ s.cfg.geometry.pageShift) ∧ (15 / 2 ^ s.cfg.geometry.pageShift ≤ 3 ∧ statusGet s (1 + 3) = 0xFF) ∧
      (5 / 2 ^ s.cfg.geometry.pageShift ≤ 3 ∧ statusGet s (1 + 1) ≠ 0xFF) := by decide

theorem storage_reset : StorageInv State.reset where
  marker := rfl
  reserved := ⟨rfl, rfl⟩
  lowBits := rfl
  absentPages := by decide
  redirections := by intro p hp; left; match p, hp with | 0, _ => rfl | 1, _ => rfl | 2, _ => rfl | 3, _ => rfl
  memCanonical := rfl
  memInside := rfl
theorem witness_TranslationStaysInRange :
    cfgOk State.reset.cfg = true ∧ StorageInv State.reset ∧
      63 < State.reset.cfg.geometry.pageCount * 2 ^ State.reset.cfg.geometry.pageShift ∧
      State.reset.cfg.geometry.memSize ≤ translateAddr State.reset 63 :=
  ⟨test_reference_ok, storage_reset, by decide, by decide⟩
theorem witness_OtherDeviceCommandIsSilent : (0xF1 : Byte) ≠ 0xF0 := by decide
/-- NOP meets every exclusion of a host operation, SKIP_ROM those of a line command. -/
theorem witness_OperationsWriteOnlyTheirs :
    (nextOf (exec (.readMemory 0x00 0x00) State.reset)).isSome = true ∧
    (nextOf (exec .nop State.reset)).isSome = true ∧ Instr.format .nop = .host20 ∧ Instr.nop ≠ .poll ∧
      Instr.nop ≠ .clearError ∧ Instr.nop ≠ .skipRom ∧
    (nextOf (exec .skipRom State.reset)).isSome = true ∧ Instr.format .skipRom ≠ .host20 ∧ Instr.skipRom ≠ .poll := by decide
theorem witness_HostOperationsTurnedAwayWhileBusy :
    Instr.format .poll = .host20 ∧ (mid .waitReset .waitHigh 0 40 true).phase ≠ .idle := by decide
theorem witness_HostPortHiddenWhileBusy :
    (mid .waitReset .waitHigh 0 40 true).phase ≠ .idle ∧ (hostTick 6 0x00 0x00).rst = (quietInput false).rst ∧
      (hostTick 6 0x00 0x00).pull = (quietInput false).pull := by decide
theorem witness_IdleBlindToLine :
    State.reset.phase = .idle ∧ (quietInput true).rst = (quietInput false).rst ∧
      (quietInput true).hValid = (quietInput false).hValid ∧
      ((quietInput true).hValid = true → (quietInput true).hOp = (quietInput false).hOp ∧
        (quietInput true).hA = (quietInput false).hA ∧ (quietInput true).hB = (quietInput false).hB) := by decide
theorem witness_IdleBlindToLine_operation :
    let u := hostTick 1 0x00 0x00
    let v : TickIn := { u with pull := true }
    u.rst = v.rst ∧ u.hValid = v.hValid ∧ (u.hValid = true ∧ u.hOp = v.hOp ∧ u.hA = v.hA ∧ u.hB = v.hB) := by decide
theorem witness_IdleWithoutOperationStays :
    let s : State := { State.reset with inputs := [quietInput true] }
    cfgOk s.cfg = true ∧ (nextInput s).rst = false ∧ s.phase = .idle ∧ (nextInput s).hValid = false := by decide
theorem witness_ResetInputOverridesEverything :
    let s : State := { mid .dTxData .drive 3 2 true with inputs := [⟨true, true, true, 6, 0, 0⟩] }
    cfgOk s.cfg = true ∧ (nextInput s).rst = true := by decide
theorem witness_ResetStateValues : State.reset = State.resetOf Config.reference := rfl
theorem witness_OtherBusCommandAborts : (0xCD : Byte) ≠ 0xCC := by decide
theorem witness_OnlyIllegalConfigurationsStop :
    (nextOf (step { State.reset with inputs := [quietInput true] })).isSome = true := by decide

theorem witness_WaitResetTick_fall :
    let s := { mid .waitReset .waitHigh 0 1 false with hi := 2 }
    Ticking s false ∧ s.phase = .waitReset ∧ counterLive s ∧ (false = false ∧ s.cfg.profile.settleMin ≤ s.hi) :=
  ⟨ticking_mid rfl rfl rfl, rfl, by unfold counterLive; decide, rfl, by decide⟩
theorem witness_WaitResetTick_unsettled :
    let s := { mid .waitReset .waitHigh 0 2 false with hi := 1 }
    Ticking s false ∧ s.phase = .waitReset ∧ counterLive s ∧ ¬(false = false ∧ s.cfg.profile.settleMin ≤ s.hi) ∧
      s.cnt ≠ 1 :=
  ⟨ticking_mid rfl rfl rfl, rfl, by unfold counterLive; decide, by decide, by decide⟩
theorem witness_WaitResetTick_timeout :
    let s := { mid .waitReset .waitHigh 0 1 true with hi := 2 }
    Ticking s true ∧ s.phase = .waitReset ∧ counterLive s ∧ ¬(true = false ∧ s.cfg.profile.settleMin ≤ s.hi) ∧
      s.cnt = 1 :=
  ⟨ticking_mid rfl rfl rfl, rfl, by unfold counterLive; decide, by decide, rfl⟩
theorem witness_LowSampleCounted_more :
    let s := { mid .confirmReset .waitHigh 0 0 false with low := 28 }
    Ticking s false ∧ s.phase = .confirmReset ∧ s.low < s.cfg.profile.resetTimeout ∧
      s.low + 1 < s.cfg.profile.resetTimeout := ⟨ticking_mid rfl rfl rfl, rfl, by decide, by decide⟩
theorem witness_LowSampleCounted_limit :
    let s := { mid .confirmReset .waitHigh 0 0 false with low := 29 }
    Ticking s false ∧ s.phase = .confirmReset ∧ s.low < s.cfg.profile.resetTimeout ∧
      s.low + 1 = s.cfg.profile.resetTimeout := ⟨ticking_mid rfl rfl rfl, rfl, by decide, by decide⟩
theorem witness_ReleasedPulseClassified_short :
    let s := { mid .confirmReset .waitHigh 0 0 true with low := 11 }
    Ticking s true ∧ s.phase = .confirmReset ∧ s.low < (bounds s).resetMin :=
  ⟨ticking_mid rfl rfl rfl, rfl, by decide⟩
theorem witness_ReleasedPulseClassified_valid :
    let s := { mid .confirmReset .waitHigh 0 0 true with low := 12 }
    Ticking s true ∧ s.phase = .confirmReset ∧ (bounds s).resetMin ≤ s.low ∧
      false = (if s.od = true ∧ s.cfg.profile.normal.resetMin ≤ s.low then false else s.od) :=
  ⟨ticking_mid rfl rfl rfl, rfl, by decide, by decide⟩
theorem witness_ReleasedPulseClassified_overdrive :
    let s := { mid .confirmReset .waitHigh 0 0 true with low := 11, od := true }
    Ticking s true ∧ s.phase = .confirmReset ∧ (bounds s).resetMin ≤ s.low ∧
      true = (if s.od = true ∧ s.cfg.profile.normal.resetMin ≤ s.low then false else s.od) :=
  ⟨ticking_mid rfl rfl rfl, rfl, by decide, by decide⟩

/-- Live counters at both edges of the `cnt ≠ 1` and `cnt = 1` clauses, for the presence and bit-engine statements. -/
theorem witness_counterLive (ph : Phase) (bt : BitState) (bit : BitVec 3) (x : Bool) :
    counterLive (mid ph bt bit 1 x) ∧ counterLive (mid ph bt bit 2 x) ∧ (mid ph bt bit 2 x).cnt ≠ 1 :=
  ⟨⟨Nat.le_refl 1, (show 1 < 2 ^ 16 by decide)⟩, ⟨(show 1 ≤ 2 by decide), (show 2 < 2 ^ 16 by decide)⟩, (show 2 ≠ 1 by decide)⟩
/-- The line sample of `mid` is the one it is given. -/
theorem witness_Ticking (ph : Phase) (bt : BitState) (bit : BitVec 3) (cnt : Nat) (x : Bool) :
    Ticking (mid ph bt bit cnt x) x := ticking_mid rfl rfl (by cases x <;> rfl)
theorem witness_PresenceSequenced :
    (mid .presDelay .waitHigh 0 1 true).phase = .presDelay ∧ (mid .presDrive .waitHigh 0 1 true).phase = .presDrive ∧
      (mid .presRelease .waitHigh 0 1 false).phase = .presRelease := ⟨rfl, rfl, rfl⟩
theorem witness_SlotEndAwaited (x : Bool) :
    let s := mid .rxCmd .waitHigh 7 1 x
    Ticking s x ∧ counterLive s ∧ s.phase.isByte = true ∧ s.bt = .waitHigh :=
  ⟨witness_Ticking _ _ _ _ _, (witness_counterLive _ _ _ _).1, rfl, rfl⟩
theorem witness_SlotStartAwaited_receive (x : Bool) :
    let s := mid .dRxTa1 .waitFall 0 1 x
    Ticking s x ∧ counterLive s ∧ s.phase.isByte = true ∧ s.bt = .waitFall ∧ s.phase.isReceive = true :=
  ⟨witness_Ticking _ _ _ _ _, (witness_counterLive _ _ _ _).1, rfl, rfl, rfl⟩
theorem witness_SlotStartAwaited_send :
    let s := mid .dTxCrc1 .waitFall 7 1 false
    let t := { s with byte := 0x80 }
    Ticking s false ∧ counterLive s ∧ s.phase.isSend = true ∧ s.byte.getLsbD s.bit.toNat = false ∧
      Ticking t false ∧ t.byte.getLsbD t.bit.toNat = true :=
  ⟨witness_Ticking _ _ _ _ _, (witness_counterLive _ _ _ _).1, rfl, rfl, ticking_mid rfl rfl rfl, rfl⟩
theorem witness_SlotSampled (x : Bool) :
    let s := mid .dRxCmd .sample 6 1 x
    Ticking s x ∧ counterLive s ∧ s.phase.isReceive = true ∧ s.bt = .sample ∧ s.bit ≠ 7 ∧ (x = true ∨ s.cnt = 1) :=
  ⟨witness_Ticking _ _ _ _ _, (witness_counterLive _ _ _ _).1, rfl, rfl, (show (6 : BitVec 3) ≠ 7 by decide), .inr rfl⟩
theorem witness_SlotSampled_more (bit : BitVec 3) :
    let s := mid .dRxCmd .sample bit 2 false
    Ticking s false ∧ counterLive s ∧ s.phase.isReceive = true ∧ s.bt = .sample ∧ s.cnt ≠ 1 :=
  ⟨witness_Ticking _ _ _ _ _, (witness_counterLive _ _ _ _).2.1, rfl, rfl, (witness_counterLive _ .sample bit false).2.2⟩
theorem witness_SlotSent (x : Bool) :
    let s := mid .dTxCrc2 .hold 6 1 x
    Ticking s x ∧ counterLive s ∧ s.phase.isSend = true ∧ s.bit ≠ 7 ∧ s.bt = .hold :=
  ⟨witness_Ticking _ _ _ _ _, (witness_counterLive _ _ _ _).1, rfl, (show (6 : BitVec 3) ≠ 7 by decide), rfl⟩
theorem witness_SlotSent_more (bit : BitVec 3) (x : Bool) :
    let s := mid .dTxCrc2 .hold bit 2 x
    Ticking s x ∧ counterLive s ∧ s.phase.isSend = true ∧ s.bt = .hold ∧ s.cnt ≠ 1 :=
  ⟨witness_Ticking _ _ _ _ _, (witness_counterLive _ _ _ _).2.1, rfl, rfl, (witness_counterLive _ .hold bit x).2.2⟩
theorem witness_SlotSent_drive :
    let s := { mid .dTxCrc2 .drive 0 1 true with oe := true }
    Ticking s false ∧ counterLive s ∧ s.phase.isSend = true ∧ s.bit ≠ 7 ∧ s.bt = .drive :=
  ⟨ticking_mid rfl rfl rfl, ⟨Nat.le_refl 1, (show 1 < 2 ^ 16 by decide)⟩, rfl, by decide, rfl⟩
theorem witness_ReceivedBytesStored (x : Bool) :
    (let s := mid .dRxCmd .sample 7 1 x;
      Ticking s x ∧ counterLive s ∧ s.bt = .sample ∧ s.bit = 7 ∧ (x = true ∨ s.cnt = 1) ∧ s.phase = .dRxCmd) ∧
    (let s := mid .dRxTa1 .sample 7 1 x;
      Ticking s x ∧ counterLive s ∧ s.bt = .sample ∧ s.bit = 7 ∧ (x = true ∨ s.cnt = 1) ∧ s.phase = .dRxTa1) :=
  ⟨⟨witness_Ticking _ _ _ _ _, (witness_counterLive _ _ _ _).1, rfl, rfl, .inr rfl, rfl⟩,
   ⟨witness_Ticking _ _ _ _ _, (witness_counterLive _ _ _ _).1, rfl, rfl, .inr rfl, rfl⟩⟩
/-- The last address inside memory is 43 = 0x2B; the data byte of address 42 has a successor, that of 43 has none. -/
theorem witness_AnswerBytesSent (ph : Phase) (a : Byte) (b : BitVec 9) :
    let s := { mid ph .hold 7 1 true with ta1 := a, addr := b }
    Ticking s true ∧ s.cnt = 1 ∧ counterLive s ∧ s.bit = 7 ∧ (s.bt = .drive ∨ (s.bt = .hold ∧ s.oe = false)) ∧
      s.phase = ph ∧ (0x2B : Byte).toNat < s.cfg.geometry.memSize ∧ s.cfg.geometry.memSize ≤ (0x2C : Byte).toNat ∧
      (42 : BitVec 9).toNat + 1 < s.cfg.geometry.memSize ∧ (43 : BitVec 9).toNat + 1 = s.cfg.geometry.memSize :=
  ⟨ticking_mid rfl rfl rfl, rfl, ⟨Nat.le_refl 1, (show 1 < 2 ^ 16 by decide)⟩, rfl, .inr ⟨rfl, rfl⟩, rfl,
    (show 43 < 44 by decide), Nat.le_refl 44, (show 42 + 1 < 44 by decide), rfl⟩

/-- A state in the middle of a read that meets all three invariants, and whose step goes on. -/
def reading : State :=
  { mid .dTxData .hold 7 1 true with dcmd := 0xF0, ta1 := 0x2B, addr := 43, byte := 0x30, mem := [(43, 0x30)] }
theorem witness_SequencerInvariantKept : SequencerInv reading ∧ (nextOf (step reading)).isSome = true :=
  ⟨⟨by decide, by decide, by decide, by decide, by decide, by decide, by decide, by decide, by decide, by decide, by decide,
    by decide, by decide⟩, by decide⟩
theorem witness_StorageInvariantKept : StorageInv reading ∧ (nextOf (step reading)).isSome = true :=
  ⟨⟨rfl, ⟨rfl, rfl⟩, rfl, by decide,
    by intro p hp; left; match p, hp with | 0, _ => rfl | 1, _ => rfl | 2, _ => rfl | 3, _ => rfl, rfl, rfl⟩, by decide⟩
theorem witness_TransactionInvariantKept : TransactionInv reading ∧ (nextOf (step reading)).isSome = true :=
  ⟨⟨by decide, by decide, by decide, by decide, fun _ => ⟨by decide, by decide, by decide, by decide⟩, by decide⟩, by decide⟩
/-- For the whole-machine rules of running cycles. -/
theorem witness_PhasesFollowTheirSuccessors_StorageKeptInCycle :
    (nextOf (step reading)).isSome = true ∧ (nextInput reading).rst = false ∧ reading.phase ≠ .idle := by decide
theorem witness_ErrorsHaveOneCause_CycleEndsQuiet :
    let s := mid .rxCmd .waitFall 0 1 true
    (nextInput s).rst = false ∧ s.phase ≠ .idle ∧
      (nextOf (step s)).map (fun t => (t.phase, decide (t.err ≠ s.err))) = some (.idle, true) := by decide
theorem witness_ErrorsHaveOneCause_live : counterLive (mid .rxCmd .waitFall 0 1 true) := (witness_counterLive _ _ _ _).1
theorem witness_CycleEndsQuiet_dispatched :
    let s := mid .dTxCrc2 .hold 7 1 true
    (nextInput s).rst = false ∧ s.phase ≠ .idle ∧
      (nextOf (step s)).map (fun t => (t.phase, t.dispatched)) = some (.idle, true) := by decide
theorem witness_PresencePulseLasts :
    let s : State := { mid .presDrive .waitHigh 0 4 true with oe := true, inputs := List.replicate 4 (quietInput true) }
    cfgOk s.cfg = true ∧ s.phase = .presDrive ∧ s.oe = true ∧ s.cnt = (bounds s).presenceMin ∧
      ∀ k, k < s.cnt → (inputAt s k).rst = false := by decide
/-- R14: the master releases, the block drives, and the line is low; the master's pull decides where the block does not drive. -/
theorem witness_ReceivedBitByLowTime_line :
    let s : State := { mid .dTxData .drive 3 2 true with oe := true }
    let t := mid .rxCmd .waitFall 3 2 true
    (s.oe = true ∧ (nextInput s).pull = false ∧ lineLevel s = false) ∧
      (t.oe = false ∧ (nextInput t).pull = false ∧ lineLevel t = true) := by decide
/-- `L = 2` is the last low time that reads as 1, `L = 3` the first that reads as 0 (V-BT-1). -/
theorem witness_ReceivedBitByLowTime :
    let s (L : Nat) : State := { mid .rxCmd .sample 0 2 true with
      inputs := [quietInput (decide (0 < L - 1)), quietInput (decide (1 < L - 1))] }
    ∀ L, L = 1 ∨ L = 2 ∨ L = 3 → cfgOk (s L).cfg = true ∧ (s L).phase.isReceive = true ∧ (s L).bt = .sample ∧
      (s L).oe = false ∧ (s L).bit ≠ 7 ∧ (s L).cnt = (bounds (s L)).readMin ∧ 1 ≤ L ∧
      ∀ k, k < (bounds (s L)).readMin →
        (inputAt (s L) k).rst = false ∧ (inputAt (s L) k).pull = decide (k < L - 1) := by
  rintro s L (rfl | rfl | rfl) <;> decide

end Sys2Proof.Tests
end

section
/-! SUPPORT. Proofs of the statements of spec/00_scope.md: which configurations a step takes (O37), the presence pulse (O59) and
the received bit (O60). The last two share one shape: a wait is some ticks that only count, then the tick that ends it. -/

namespace Sys2Proof.Machine

/-! ### Which configurations a step takes (R7, R10, R350) -/

/-- Every operation has a next state in every state. -/
theorem exec_next (i : Instr) (s : State) : ∃ t, exec i s = .next t := by
  cases i <;> exact ⟨_, rfl⟩

/-- Whatever a tick comes to, it goes on. -/
theorem Action.outcome_next (a : Action) : ∃ t, a.outcome = .next t := by
  cases a with
  | move t => exact ⟨t, rfl⟩
  | run i t => exact exec_next i t

/-- The configuration check is the only thing that stops a step. -/
theorem step_next_iff (s : State) : (∃ t, step s = .next t) ↔ cfgOk s.cfg = true := by
  constructor
  · rintro ⟨t, ht⟩
    exact cfgOk_of_step ht
  · intro hc
    rw [step_of_cfgOk hc]
    exact Action.outcome_next _

/-- The constraints of R7 on one speed. The sum `slotMax + readMax` is a counter value of its own (R240); that it is at least 1
follows from its terms. -/
theorem speedOk_iff (c : Cfg) (b : SpeedBounds) : speedOk c b = true ↔
    b.readMax > b.writeZero ∧ b.resetMin > b.slotMax + b.readMax ∧ b.resetMax > b.resetMin ∧
    b.presenceMax > b.presenceMin ∧ c.profile.resetTimeout > b.resetMax ∧
    ∀ n ∈ [b.resetMin, b.resetMax, b.presenceDelay, b.presenceMin, b.presenceMax, b.slotMax, b.writeZero,
      b.readMin, b.readMax, b.slotMax + b.readMax], 1 ≤ n ∧ n < 2 ^ c.cntW := by
  simp only [speedOk, Bool.and_eq_true, decide_eq_true_eq, List.all_cons, List.all_nil, List.forall_mem_cons,
    List.not_mem_nil, false_imp_iff, implies_true, and_true]
  omega

/-- The constraints of R7 on both speeds and on the bounds they share. -/
theorem profileOk_iff (c : Cfg) : profileOk c = true ↔
    (∀ b, b = c.profile.normal ∨ b = c.profile.overdrive → speedOk c b = true) ∧
    (∀ n ∈ [c.profile.resetTimeout, c.profile.idleTimeout, c.profile.highTimeout, c.profile.settleMin],
      1 ≤ n ∧ n < 2 ^ c.cntW) ∧
    c.profile.overdrive.resetMin ≤ c.profile.normal.resetMin := by
  simp only [profileOk, Bool.and_eq_true, decide_eq_true_eq, List.all_eq_true, forall_eq_or_imp, forall_eq, and_assoc]

/-- The constraints of R10. -/
theorem geometryOk_iff (g : Geometry) : geometryOk g = true ↔
    1 ≤ g.pageCount ∧ g.pageCount ≤ 4 ∧ 1 ≤ g.pageShift ∧ g.pageShift ≤ 7 ∧ g.pageCount * 2 ^ g.pageShift ≤ 256 ∧
    1 ≤ g.memSize ∧ g.memSize ≤ g.pageCount * 2 ^ g.pageShift := by
  simp only [geometryOk, Bool.and_eq_true, decide_eq_true_eq, and_assoc]

/-- Settles O37: every action of a tick goes on, so a step stops by the configuration check alone, and the check is R7 and R10. -/
theorem onlyIllegalConfigurationsStop : Obligations.OnlyIllegalConfigurationsStop := by
  intro s
  simp only [step_next_iff, cfgOk, Bool.and_eq_true, profileOk_iff, speedOk_iff, geometryOk_iff, and_assoc]

/-! ### The line (R14) -/

theorem lineLevel_of_driven {s : State} (h : s.oe = true) : lineLevel s = false := by
  simp [lineLevel, h]

theorem lineLevel_of_released {s : State} (h : s.oe = false) : lineLevel s = !(nextInput s).pull := by
  simp [lineLevel, h]

/-! ### Ticks that only count -/

/-- A run is longer by a step at its end. -/
theorem run_succ_of_run (M : Host.Core) {n : Nat} {s t u : M.State} (hrun : M.run n s = .next t)
    (hstep : M.step t = .next u) : M.run (n + 1) s = .next u := by
  induction n generalizing s with
  | zero =>
    obtain rfl : s = t := by simpa [Host.Core.run] using hrun
    simp [Host.Core.run, hstep]
  | succ n ih =>
    cases h : M.step s with
    | next s' =>
      rw [run_of_next M h] at hrun ⊢
      exact ih hrun
    | fault r => simp [Host.Core.run, h] at hrun
    | refused r => simp [Host.Core.run, h] at hrun

/-- The state after `k` ticks of a wait that goes on: the counter is down by `k` and `k` ticks' inputs are taken (R161, R162).
`run_waited` ties it to the run. -/
@[simps] def waited (k : Nat) (s : State) : State :=
  { s with
    cnt := s.cnt - k, inputs := s.inputs.drop k, now := s.now + k, port := if k = 0 then s.port else HostOut.none }

theorem waited_succ (k : Nat) (s : State) :
    waited (k + 1) s = { afterInput (waited k s) with cnt := (waited k s).cnt - 1 } := by
  simp [waited, afterInput, Nat.sub_sub, Nat.add_assoc]

@[simp] theorem nextInput_waited (k : Nat) (s : State) : nextInput (waited k s) = inputAt s k := by
  rw [← inputAt_zero]
  simp [inputAt]

theorem counterLive_waited {k : Nat} {s : State} (h : counterLive s) (hk : k < s.cnt) : counterLive (waited k s) := by
  obtain ⟨_, hfits⟩ := h
  exact ⟨by simp; omega, by simp; omega⟩

theorem ticking_waited {k : Nat} {s : State} (hc : cfgOk s.cfg = true) (hr : (inputAt s k).rst = false) :
    Ticking (waited k s) (lineLevel (waited k s)) :=
  ⟨hc, by simpa using hr, rfl⟩

/-- While every tick only counts, the run is the counting. -/
theorem run_waited {s : State} {k : Nat}
    (h : ∀ j, j < k → step (waited j s) = .next { afterInput (waited j s) with cnt := (waited j s).cnt - 1 }) :
    Sys2Proof.core.run k s = .next (waited k s) := by
  induction k with
  | zero => rfl
  | succ k ih =>
    have hbefore := ih fun j hj => h j (by omega)
    rw [waited_succ]
    exact run_succ_of_run Sys2Proof.core hbefore (h k (by omega))

/-! ### The presence pulse (R233, R163) -/

/-- An early tick of the pulse counts, whatever the line sample is. -/
theorem step_presDrive_more {s : State} {x : Bool} (ht : Ticking s x) (hp : s.phase = .presDrive) (hl : counterLive s)
    (h1 : s.cnt ≠ 1) : step s = .next { afterInput s with cnt := s.cnt - 1 } := by
  have hd := delayTick_more (s := afterInput s) hl h1
  rw [step_busy ht (by simp [hp])]
  simp [sequencer, hp, presDrive, hd, Action.outcome]

/-- The last tick of the pulse releases the line. -/
theorem step_presDrive_last {s : State} {x : Bool} (ht : Ticking s x) (hp : s.phase = .presDrive) (hl : counterLive s)
    (h1 : s.cnt = 1) : step s = .next { afterInput s with
      oe := false, phase := .presRelease, cnt := (bounds s).presenceMax - (bounds s).presenceMin } := by
  have hd := delayTick_last (s := afterInput s) hl h1
  rw [step_busy ht (by simp [hp])]
  simp [sequencer, hp, presDrive, hd, Action.outcome, bounds]

/-- The pulse goes on for as long as its counter lasts. -/
theorem run_presDrive {s : State} {k : Nat} (hc : cfgOk s.cfg = true) (hp : s.phase = .presDrive) (hl : counterLive s)
    (hr : ∀ j, j < s.cnt → (inputAt s j).rst = false) (hk : k < s.cnt) :
    Sys2Proof.core.run k s = .next (waited k s) := by
  refine run_waited fun j hj => ?_
  have hj' : j < s.cnt := by omega
  exact step_presDrive_more (ticking_waited hc (hr j hj')) hp (counterLive_waited hl hj') (by simp; omega)

/-- Settles O59: `PRESENCE_MIN - 1` ticks count with the line driven, and the next one releases it. -/
theorem presencePulseLasts : Obligations.PresencePulseLasts := by
  intro s hc hp hoe hcnt hr
  obtain ⟨_, _, _, hlt, _, _, ⟨hmin, hmax⟩, _⟩ := profile_of_cfgOk hc
  have hl : counterLive s := ⟨by omega, by omega⟩
  refine ⟨fun k hk => ⟨waited k s, run_presDrive hc hp hl hr hk, hp, hoe, lineLevel_of_driven hoe⟩, ?_⟩
  obtain ⟨m, hm⟩ : ∃ m, s.cnt = m + 1 := ⟨s.cnt - 1, by omega⟩
  have hmc : m < s.cnt := by omega
  have hlast := step_presDrive_last (ticking_waited hc (hr m hmc)) hp (counterLive_waited hl hmc) (by simp; omega)
  rw [hm]
  exact ⟨_, run_succ_of_run Sys2Proof.core (run_presDrive hc hp hl hr hmc) hlast, rfl, rfl, rfl⟩

/-! ### The received bit (R171, R172) -/

/-- The bit that `setBit` names takes the value, every other bit stays (R15). -/
theorem getLsbD_setBit (v : Byte) (b : Bool) (i : Nat) {j : Nat} (hj : j < 8) :
    (setBit v i b).getLsbD j = if j = i then b else v.getLsbD j := by
  have hmask : (1#8 <<< i).getLsbD j = decide (j = i) := by
    rw [← BitVec.twoPow_eq, BitVec.getLsbD_twoPow, ← Bool.decide_and, decide_eq_decide]
    omega
  cases b with
  | true =>
    simp only [setBit, if_true, BitVec.getLsbD_or, hmask]
    by_cases h : j = i <;> simp [h]
  | false =>
    simp only [setBit, Bool.false_eq_true, if_false, BitVec.getLsbD_and, BitVec.getLsbD_not, hmask]
    by_cases h : j = i <;> simp [h, hj]

theorem Phase.isByte_of_isReceive {p : Phase} (h : p.isReceive = true) : p.isByte = true := by
  simp [Phase.isByte, h]

/-- An ordinary tick of a byte phase is the bit engine's (R35). -/
theorem step_byte {s : State} {x : Bool} (ht : Ticking s x) (hp : s.phase.isByte = true) :
    step s = (bitEngine x (afterInput s)).outcome := by
  have hbusy : s.phase ≠ .idle := by
    intro h
    simp [h, Phase.isByte, Phase.isReceive, Phase.isSend] at hp
  rw [step_busy ht hbusy, sequencer_byte (by simpa using hp)]

/-- An early low sample of a slot counts (R161, R171). -/
theorem step_sample_more {s : State} (ht : Ticking s false) (hp : s.phase.isReceive = true) (hb : s.bt = .sample)
    (hl : counterLive s) (h1 : s.cnt ≠ 1) : step s = .next { afterInput s with cnt := s.cnt - 1 } := by
  have hd := delayTick_more (s := afterInput s) hl h1
  rw [step_byte ht (Phase.isByte_of_isReceive hp)]
  simp [bitEngine, hb, waitWhile_level, hd, Action.outcome]

/-- A high sample or the last tick of the budget ends the slot with the sample's value, at every bit (R171); the end of the slot
loads the counter anew, so what is left in it is not said. -/
theorem bitEngine_sample_decided {s : State} {x : Bool} (hb : s.bt = .sample) (hl : counterLive s)
    (hx : x = true ∨ s.cnt = 1) :
    ∃ c, bitEngine x s = bitDone (some x) { s with cnt := c } := by
  cases x with
  | true =>
    have hseen : bitEngine true s = bitDone (some true) s := by simp [bitEngine, hb, waitWhile_seen]
    exact ⟨s.cnt, hseen⟩
  | false =>
    have hlast := delayTick_last hl (by simpa using hx)
    exact ⟨0, by simp [bitEngine, hb, waitWhile_level, hlast]⟩

/-- A received bit that is not the byte's last is stored, and the next slot starts (R172). -/
theorem bitDone_received {s : State} (x : Bool) (hp : s.phase.isReceive = true) (hbit : s.bit ≠ 7) :
    bitDone (some x) s = .move { s with
      byte := setBit s.byte s.bit.toNat x, bit := s.bit + 1, bt := .waitHigh, cnt := (bounds s).slotMax } := by
  simp only [bitDone_more _ hbit, storeBit, hp, if_true]

/-- The tick that decides a received bit (R171, R172). -/
theorem step_sample_decided {s : State} {x : Bool} (ht : Ticking s x) (hp : s.phase.isReceive = true)
    (hb : s.bt = .sample) (hl : counterLive s) (hbit : s.bit ≠ 7) (hx : x = true ∨ s.cnt = 1) :
    step s = .next { afterInput s with
      byte := setBit s.byte s.bit.toNat x, bit := s.bit + 1, bt := .waitHigh, cnt := (bounds s).slotMax } := by
  obtain ⟨c, hc⟩ := bitEngine_sample_decided (s := afterInput s) hb hl hx
  have hdone := bitDone_received (s := { afterInput s with cnt := c }) x hp hbit
  rw [step_byte ht (Phase.isByte_of_isReceive hp), hc, hdone]
  rfl

/-- Settles O60: with `L` the low time, `min L READ_MIN - 1` low samples count; the next sample decides, and it is high exactly
when the master has released the line by then. -/
theorem receivedBitByLowTime : Obligations.ReceivedBitByLowTime := by
  refine ⟨fun s => ⟨lineLevel_of_driven, lineLevel_of_released⟩, ?_⟩
  intro s L hc hp hb hoe hbit hcnt hL hin
  obtain ⟨_, _, _, _, _, _, _, _, _, ⟨hmin, hmax⟩, _⟩ := profile_of_cfgOk hc
  have hl : counterLive s := ⟨by omega, by omega⟩
  have hline : ∀ k, k < s.cnt → lineLevel (waited k s) = !decide (k < L - 1) := fun k hk => by
    rw [lineLevel_of_released (s := waited k s) hoe, nextInput_waited, (hin k (by omega)).2]
  have htick : ∀ k, k < s.cnt → Ticking (waited k s) (!decide (k < L - 1)) := fun k hk =>
    hline k hk ▸ ticking_waited hc (hin k (by omega)).1
  obtain ⟨m, hm⟩ : ∃ m, min L s.cnt = m + 1 := ⟨min L s.cnt - 1, by omega⟩
  have hmc : m < s.cnt := by omega
  have hcount : Sys2Proof.core.run m s = .next (waited m s) := by
    refine run_waited fun j hj => ?_
    have hlow : (!decide (j < L - 1)) = false := by simp; omega
    exact step_sample_more (hlow ▸ htick j (by omega)) hp hb (counterLive_waited hl (by omega)) (by simp; omega)
  have hvalue : (!decide (m < L - 1)) = decide (L ≤ (bounds s).readMin) := by
    rw [← decide_not, decide_eq_decide]; omega
  have hdecides : decide (L ≤ (bounds s).readMin) = true ∨ (waited m s).cnt = 1 := by
    simp; omega
  have hlast := step_sample_decided (s := waited m s) (hvalue ▸ htick m hmc) hp hb (counterLive_waited hl hmc) hbit hdecides
  refine ⟨m + 1, _, by omega, run_succ_of_run Sys2Proof.core hcount hlast, rfl, rfl, rfl, fun j hj => ?_⟩
  exact getLsbD_setBit s.byte _ s.bit.toNat hj

end Sys2Proof.Machine
end

section
/-! SUPPORT. Proofs of the statements of spec/10_state.md: the reset state, the status outputs, the successors of a phase, and the
invariants. What a tick can do is said once, by `IdleMove` in `IDLE` and by `SequencerMove` in a running cycle; the
statements about every step are case analyses over these two. -/

namespace Sys2Proof.Machine

/-! ### The status outputs (R33 to R36, R54, R129) -/

/-- The byte phases in the order of R35. -/
theorem Phase.isByte_iff_mem (p : Phase) :
    p.isByte = true ↔ p ∈ [Phase.rxCmd, .dRxCmd, .dRxTa1, .dRxTa2, .dTxCrc1, .dTxData, .dTxCrc2] := by
  cases p <;> decide

theorem busy_iff (s : State) : busy s = true ↔ s.phase ≠ .idle := by
  simp [busy]

/-- Settles O4: `busy` and `crit` are tests of the phase, the other outputs are registers, and the codes are listed. -/
theorem statusOutputsFollowState : Obligations.StatusOutputsFollowState := by
  refine ⟨fun s => ⟨busy_iff s, Phase.isByte_iff_mem s.phase, ?_⟩, ?_, ?_, ?_⟩
  · exact ⟨rfl, rfl, rfl, rfl, rfl, rfl, rfl, rfl⟩
  · decide
  · decide
  · decide

/-! ### A tick that runs nothing: reset and the idle tick (R31, R37, R390) -/

theorem step_of_rst {s : State} (hc : cfgOk s.cfg = true) (hr : (nextInput s).rst = true) :
    step s = .next (resetTick (afterInput s)) := by
  simp [step_of_cfgOk hc, tick, hr, Action.outcome]

theorem step_of_idle {s : State} (hc : cfgOk s.cfg = true) (hr : (nextInput s).rst = false) (hp : s.phase = .idle)
    (hv : (nextInput s).hValid = false) : step s = .next (afterInput s) := by
  simp [step_of_cfgOk hc, tick, hr, hp, hv, Action.outcome]

/-- Settles O34: the idle tick is `afterInput`, which writes the model's own fields alone. -/
theorem idleWithoutOperationStays : Obligations.IdleWithoutOperationStays :=
  fun _ hc hr hp hv => step_of_idle hc hr hp hv

/-- Settles O35: `rst` is looked at before the phase and the host port. -/
theorem resetInputOverridesEverything : Obligations.ResetInputOverridesEverything :=
  fun _ hc hr => step_of_rst hc hr

/-! ### The reset state (R57, R391) -/

/-- The status block after reset and after CLEAR_STATUS, byte by byte; past its end there is none. -/
theorem statusGet_of_statusInit {s : State} (h : s.status = statusInit) (i : Nat) :
    statusGet s i = if i = 7 then 0x00 else 0xFF := by
  unfold statusGet
  split
  · rename_i hi
    simp only [h]
    interval_cases i <;> rfl
  · rw [if_neg (by omega)]

theorem memRead_of_empty {s : State} (h : s.mem = []) (i : Nat) : memRead s i = 0xFF := by
  simp [memRead, h, Memory.read, Memory.blank]

/-- Settles O36: the registers are the reset state's own fields; storage is read through its accessors. -/
theorem resetStateValues : Obligations.ResetStateValues := by
  rintro c s rfl
  have hstatus := statusGet_of_statusInit (State.resetOf_status c)
  have hmem := memRead_of_empty (State.resetOf_mem c)
  refine ⟨rfl, rfl, rfl, rfl, rfl, rfl, rfl, rfl, rfl, rfl, rfl, rfl, rfl, rfl, rfl, rfl, rfl, rfl, ?_, ?_, hmem⟩
  · intro i hi
    rw [hstatus i, if_neg (by omega)]
  · exact hstatus 7

/-! ### What a tick in `IDLE` can do (R310 to R326) -/

/-- The next states that a tick in `IDLE` can have, whatever the host port answers. `idleMove_of_exec` ties it to `exec`. -/
inductive IdleMove (s : State) : State → Prop
  /-- No operation, NOP, the reading operations, the reserved codes, and an operation that fails. -/
  | answers (p : HostOut) : IdleMove s { s with port := p }
  /-- POLL with a device attached (R313). -/
  | startsCycle (p : HostOut) (ha : s.attached = true) : IdleMove s { s with
      err := .noError, dispatched := false, phase := .waitReset, hi := 0, cnt := s.cfg.profile.idleTimeout, port := p }
  /-- CLEAR_ERROR, and POLL with none (R313, R314). -/
  | clearsError (d : Bool) (p : HostOut) : IdleMove s { s with err := .noError, dispatched := d, port := p }
  /-- ATTACH, DETACH (R315, R316). -/
  | setsAttached (b : Bool) (p : HostOut) : IdleMove s { s with attached := b, port := p }
  /-- SET_OD (R317). -/
  | setsSpeed (b : Bool) (p : HostOut) : IdleMove s { s with od := b, port := p }
  /-- MEM_WRITE (R318). -/
  | writesMemory (i : Nat) (v : Byte) (p : HostOut) : IdleMove s { memWrite s i v with port := p }
  /-- SET_PAGE_USED (R320). -/
  | marksPage (a : Byte) (p : HostOut) : IdleMove s { setPageUsedOp a s with port := p }
  /-- SET_PAGE_REDIR (R321). -/
  | redirectsPage (a b : Byte) (p : HostOut) : IdleMove s { setPageRedirectionOp a b s with port := p }
  /-- CLEAR_STATUS (R323). -/
  | clearsStatus (p : HostOut) : IdleMove s { s with status := statusInit, port := p }

theorem decodeHost_format (op : BitVec 4) (a b : Byte) : (decodeHost op a b).format = .host20 := by
  unfold decodeHost
  split <;> rfl

/-- In `IDLE` an operation's next state is its effect (R310). -/
theorem idleMove_of_accepted {s e t : State} (hp : s.phase = .idle)
    (h : (Host.Outcome.next (accepted s e) : Host.Outcome State Fault Refusal) = .next t) (he : IdleMove s e) :
    IdleMove s t := by
  obtain rfl : accepted s e = t := by injection h
  rwa [accepted, if_pos hp]

/-- Everything a host operation can do in `IDLE`. -/
theorem idleMove_of_exec {i : Instr} {s t : State} (hf : i.format = .host20) (hp : s.phase = .idle)
    (h : exec i s = .next t) : IdleMove s t := by
  cases i with
  | skipRom | busOther | readMemory | devOther => cases hf
  | nop | memRead | getPageRedir | translate | hostRsvd14 | hostRsvd15 => exact idleMove_of_accepted hp h (.answers _)
  | poll =>
    refine idleMove_of_accepted hp h ?_
    split
    · exact .startsCycle _ ‹_›
    · exact .clearsError _ _
  | clearError => exact idleMove_of_accepted hp h (.clearsError _ _)
  | attach =>
    refine idleMove_of_accepted hp h ?_
    split
    · exact .answers _
    · exact .setsAttached _ _
  | detach =>
    refine idleMove_of_accepted hp h ?_
    split
    · exact .setsAttached _ _
    · exact .answers _
  | setOd => exact idleMove_of_accepted hp h (.setsSpeed _ _)
  | memWrite => exact idleMove_of_accepted hp h (.writesMemory _ _ _)
  | setPageUsed => exact idleMove_of_accepted hp h (.marksPage _ _)
  | setPageRedir => exact idleMove_of_accepted hp h (.redirectsPage _ _ _)
  | clearStatus => exact idleMove_of_accepted hp h (.clearsStatus _)
  | statusRead =>
    refine idleMove_of_accepted hp h ?_
    split
    · exact .answers _
    · exact .answers _

/-! ### What a tick of a running cycle can do (R225 to R234, R166 to R172, R272 to R279) -/

/-- The tick that ends a slot with the sample `x`: the slot's value, if it has one, and the state it leaves to `bitDone`
(R169 to R171). -/
inductive SlotEnd (x : Bool) (s : State) : Option Bool → State → Prop
  | sampledOne (hb : s.bt = .sample) (hx : x = true) : SlotEnd x s (some true) s
  | sampledZero (hb : s.bt = .sample) (hx : x = false) (h0 : (countDown s).cnt = 0) :
      SlotEnd x s (some false) (countDown s)
  | driven (hb : s.bt = .drive) (h0 : (countDown s).cnt = 0) : SlotEnd x s none { countDown s with oe := false }
  | held (hb : s.bt = .hold) (h0 : (countDown s).cnt = 0) : SlotEnd x s none (countDown s)

/-- The next states that the end of a byte can have, when the byte is in `u` (R236 to R238, R272 to R281). -/
inductive ByteEnd (u : State) : State → Prop
  | skipRom (hp : u.phase = .rxCmd) (hc : u.byte = 0xCC) : ByteEnd u (startByte .dRxCmd 0x00 { u with crc8 := 0x00 })
  | busOther (hp : u.phase = .rxCmd) (hc : u.byte ≠ 0xCC) :
      ByteEnd u (raise .incorrectOnewireCmd { u with errCmd := u.byte })
  | command (hp : u.phase = .dRxCmd) : ByteEnd u (receivedCommand u)
  | firstAddress (hp : u.phase = .dRxTa1) : ByteEnd u (receivedTa1 u)
  | readMemory (hp : u.phase = .dRxTa2) (hc : u.dcmd = 0xF0) (ha : u.byte = 0x00) :
      ByteEnd u (startByte .dTxCrc1 (crc8Upd u.crc8 u.byte) (latchCommand u.dcmd u.ta1 u.byte u))
  | silent (hp : u.phase = .dRxTa2) (hc : u.dcmd ≠ 0xF0 ∨ u.byte ≠ 0x00) :
      ByteEnd u (finish (latchCommand u.dcmd u.ta1 u.byte u))
  | commandCrc (hp : u.phase = .dTxCrc1) (ha : u.ta1.toNat < u.cfg.geometry.memSize) :
      ByteEnd u (startByte .dTxData (memRead u (translateAddr u u.ta1.toNat))
        { u with crc8 := 0x00, addr := u.ta1.zeroExtend 9 })
  | commandCrcPastEnd (hp : u.phase = .dTxCrc1) (ha : u.cfg.geometry.memSize ≤ u.ta1.toNat) :
      ByteEnd u (startByte .dTxCrc2 0x00 { u with crc8 := 0x00, addr := u.ta1.zeroExtend 9 })
  | data (hp : u.phase = .dTxData) (ha : (u.addr + 1).toNat < u.cfg.geometry.memSize) :
      ByteEnd u (startByte .dTxData (memRead u (translateAddr u (u.addr + 1).toNat))
        { u with crc8 := crc8Upd u.crc8 u.byte, addr := u.addr + 1 })
  | lastData (hp : u.phase = .dTxData) (ha : u.cfg.geometry.memSize ≤ (u.addr + 1).toNat) :
      ByteEnd u (startByte .dTxCrc2 (crc8Upd u.crc8 u.byte)
        { u with crc8 := crc8Upd u.crc8 u.byte, addr := u.addr + 1 })
  | dataCrc (hp : u.phase = .dTxCrc2) : ByteEnd u (finish u)

/-- The high samples counted after a sample `x` that starts no measurement (R226). -/
def highCount (x : Bool) (s : State) : Nat := if x then min (s.hi + 1) s.cfg.profile.settleMin else 0

/-- The next states that a tick with the sample `x` can have in a running cycle, with what each asks for.
`sequencerMove_of_outcome` ties it to `sequencer`. -/
inductive SequencerMove (x : Bool) (s : State) : State → Prop
  /-- R225. -/
  | pulseStarts (hp : s.phase = .waitReset) (hx : x = false) (hh : s.cfg.profile.settleMin ≤ s.hi) :
      SequencerMove x s { s with phase := .confirmReset, low := 1 }
  /-- R226. -/
  | settles (hp : s.phase = .waitReset) (hn : ¬(x = false ∧ s.cfg.profile.settleMin ≤ s.hi))
      (h0 : (countDown s).cnt ≠ 0) :
      SequencerMove x s { countDown s with hi := highCount x s }
  /-- R227. -/
  | idleTimesOut (hp : s.phase = .waitReset) (hn : ¬(x = false ∧ s.cfg.profile.settleMin ≤ s.hi))
      (h0 : (countDown s).cnt = 0) :
      SequencerMove x s (idleTimeout { countDown s with hi := highCount x s })
  /-- R229. -/
  | pulseTooShort (hp : s.phase = .confirmReset) (hx : x = true) (hl : s.low < (bounds s).resetMin) :
      SequencerMove x s { s with phase := .waitReset, hi := 1, cnt := s.cfg.profile.idleTimeout }
  /-- R229, R230. -/
  | pulseValid (hp : s.phase = .confirmReset) (hx : x = true) (hl : (bounds s).resetMin ≤ s.low) :
      SequencerMove x s { s with
        od := speedAfterReset s s.low, phase := .presDelay,
        cnt := (bounds { s with od := speedAfterReset s s.low }).presenceDelay }
  /-- R228. -/
  | pulseGoesOn (hp : s.phase = .confirmReset) (hx : x = false) (hl : s.low + 1 < s.cfg.profile.resetTimeout) :
      SequencerMove x s { s with low := counterValue s.cfg (s.low + 1) }
  /-- R228, R362. -/
  | pulseTooLong (hp : s.phase = .confirmReset) (hx : x = false) (hl : s.cfg.profile.resetTimeout ≤ s.low + 1) :
      SequencerMove x s (raise .veryLongReset { s with low := counterValue s.cfg (s.low + 1) })
  /-- A tick of a wait that goes on, in a presence phase or in the bit engine (R161, R162). -/
  | waits (hp : s.phase ∉ [Phase.idle, .waitReset, .confirmReset]) (h0 : (countDown s).cnt ≠ 0) :
      SequencerMove x s (countDown s)
  /-- R232. -/
  | presenceStarts (hp : s.phase = .presDelay) (h0 : (countDown s).cnt = 0) :
      SequencerMove x s { countDown s with oe := true, phase := .presDrive, cnt := (bounds s).presenceMin }
  /-- R233. -/
  | presenceEnds (hp : s.phase = .presDrive) (h0 : (countDown s).cnt = 0) :
      SequencerMove x s { countDown s with
        oe := false, phase := .presRelease, cnt := (bounds s).presenceMax - (bounds s).presenceMin }
  /-- R234. -/
  | presenceReleased (hp : s.phase = .presRelease) (hx : x = true) : SequencerMove x s (startByte .rxCmd 0x00 s)
  /-- R234, R362. -/
  | presenceHeldLow (hp : s.phase = .presRelease) (hx : x = false) (h0 : (countDown s).cnt = 0) :
      SequencerMove x s (raise .presenceLowOnLine (countDown s))
  /-- R166. -/
  | lineHigh (hp : s.phase.isByte = true) (hb : s.bt = .waitHigh) (hx : x = true) :
      SequencerMove x s { s with bt := .waitFall, cnt := s.cfg.profile.highTimeout }
  /-- R166, R240. -/
  | becomesReset (hp : s.phase.isByte = true) (hb : s.bt = .waitHigh) (hx : x = false) (h0 : (countDown s).cnt = 0) :
      SequencerMove x s (resetInProgress (countDown s))
  /-- R168. -/
  | slotStarts (hp : s.phase.isByte = true) (hb : s.bt = .waitFall) (hx : x = false) : SequencerMove x s (slotStart s)
  /-- R167, R362. -/
  | slotNeverStarts (hp : s.phase.isByte = true) (hb : s.bt = .waitFall) (hx : x = true) (h0 : (countDown s).cnt = 0) :
      SequencerMove x s (raise (slotTimeoutError s) (countDown s))
  /-- R172: another slot of the byte. -/
  | nextSlot {v : Option Bool} {u : State} (hp : s.phase.isByte = true) (hu : SlotEnd x s v u) (hbit : s.bit ≠ 7) :
      SequencerMove x s { storeBit v u with bit := u.bit + 1, bt := .waitHigh, cnt := (bounds u).slotMax }
  /-- R172: the byte's end. -/
  | byteEnds {v : Option Bool} {u t : State} (hp : s.phase.isByte = true) (hu : SlotEnd x s v u) (hbit : s.bit = 7)
      (ht : ByteEnd (storeBit v u) t) : SequencerMove x s t

@[simp] theorem Action.outcome_move (s : State) : (Action.move s).outcome = .next s := rfl

theorem SlotEnd.bit_eq {x : Bool} {s u : State} {v : Option Bool} (h : SlotEnd x s v u) : u.bit = s.bit := by
  cases h <;> rfl

/-- A slot's end and the storing of its bit leave every field but `cnt`, `oe` and `byte`. -/
theorem SlotEnd.storeBit_eq {x : Bool} {s u : State} {v : Option Bool} (h : SlotEnd x s v u) :
    storeBit v u = { s with cnt := u.cnt, oe := u.oe, byte := (storeBit v u).byte } := by
  rw [Machine.storeBit_eq v u]
  cases h <;> rfl

/-- Everything the end of a byte can do. -/
theorem byteEnd_of_outcome {u t : State} (hp : u.phase.isByte = true) (h : (byteDone u).outcome = .next t) :
    ByteEnd u t := by
  unfold byteDone at h
  cases hph : u.phase with
  | idle | waitReset | confirmReset | presDelay | presDrive | presRelease =>
    simp [hph, Phase.isByte, Phase.isReceive, Phase.isSend] at hp
  | rxCmd =>
    simp only [hph, Action.outcome, decodeBus] at h
    split at h <;> obtain rfl := Host.Outcome.next.inj h
    · exact .skipRom hph ‹_›
    · exact .busOther hph ‹_›
  | dRxCmd =>
    simp only [hph, Action.outcome_move, Host.Outcome.next.injEq] at h
    exact h ▸ .command hph
  | dRxTa1 =>
    simp only [hph, Action.outcome_move, Host.Outcome.next.injEq] at h
    exact h ▸ .firstAddress hph
  | dRxTa2 =>
    simp only [hph, Action.outcome, decodeDev] at h
    split at h
    · rename_i hc
      obtain rfl := Host.Outcome.next.inj h
      rw [← hc]
      split
      · exact .readMemory hph hc ‹_›
      · exact .silent hph (.inr ‹_›)
    · obtain rfl := Host.Outcome.next.inj h
      exact .silent hph (.inl ‹_›)
  | dTxCrc1 =>
    simp only [hph, Action.outcome_move, Host.Outcome.next.injEq, sentCommandCrc] at h
    subst h
    split
    · exact .commandCrc hph ‹_›
    · exact .commandCrcPastEnd hph (by omega)
  | dTxData =>
    simp only [hph, Action.outcome_move, Host.Outcome.next.injEq, sentData] at h
    subst h
    split
    · exact .data hph ‹_›
    · exact .lastData hph (by omega)
  | dTxCrc2 =>
    simp only [hph, Action.outcome_move, Host.Outcome.next.injEq, sentDataCrc] at h
    exact h ▸ .dataCrc hph

/-- Everything the end of a slot can do (R172). -/
theorem sequencerMove_of_bitDone {x : Bool} {s u t : State} {v : Option Bool} (hp : s.phase.isByte = true)
    (hu : SlotEnd x s v u) (h : (bitDone v u).outcome = .next t) : SequencerMove x s t := by
  rcases bitDone_cases v u with ⟨hbit, he⟩ | ⟨hbit, he⟩
  · rw [he, Action.outcome_move, Host.Outcome.next.injEq] at h
    exact h ▸ .nextSlot hp hu (hu.bit_eq ▸ hbit)
  · rw [he] at h
    have hp' : (storeBit v u).phase.isByte = true := by rw [hu.storeBit_eq]; exact hp
    exact .byteEnds hp hu (hu.bit_eq ▸ hbit) (byteEnd_of_outcome hp' h)

theorem Phase.isByte_not_mem {p : Phase} (h : p.isByte = true) : p ∉ [Phase.idle, .waitReset, .confirmReset] := by
  revert h
  cases p <;> decide

/-- Everything a tick of a byte phase can do. -/
theorem sequencerMove_of_bitEngine {x : Bool} {s t : State} (hp : s.phase.isByte = true)
    (h : (bitEngine x s).outcome = .next t) : SequencerMove x s t := by
  rcases bitEngine_cases x s with ⟨hb, hx, he⟩ | ⟨hb, hx, h0, he⟩ | ⟨hb, hx, he⟩ | ⟨hb, hx, h0, he⟩ | ⟨hb, hx, he⟩ |
    ⟨hb, hx, h0, he⟩ | ⟨hb, h0, he⟩ | ⟨hb, h0, he⟩ | ⟨h0, he⟩ <;> rw [he] at h
  · exact Host.Outcome.next.inj h ▸ .lineHigh hp hb hx
  · exact Host.Outcome.next.inj h ▸ .becomesReset hp hb hx h0
  · exact Host.Outcome.next.inj h ▸ .slotStarts hp hb hx
  · exact Host.Outcome.next.inj h ▸ .slotNeverStarts hp hb hx h0
  · exact sequencerMove_of_bitDone hp (.sampledOne hb hx) h
  · exact sequencerMove_of_bitDone hp (.sampledZero hb hx h0) h
  · exact sequencerMove_of_bitDone hp (.driven hb h0) h
  · exact sequencerMove_of_bitDone hp (.held hb h0) h
  · exact Host.Outcome.next.inj h ▸ .waits (Phase.isByte_not_mem hp) h0

theorem sequencerMove_waitReset (x : Bool) {s : State} (hp : s.phase = .waitReset) :
    SequencerMove x s (waitReset x s) := by
  unfold waitReset
  split
  · rename_i h
    exact .pulseStarts hp h.1 h.2
  · rename_i hn
    change SequencerMove x s (if (countDown s).cnt = 0 then idleTimeout { countDown s with hi := highCount x s }
      else { countDown s with hi := highCount x s })
    split
    · exact .idleTimesOut hp hn ‹_›
    · exact .settles hp hn ‹_›

theorem sequencerMove_confirmReset (x : Bool) {s : State} (hp : s.phase = .confirmReset) :
    SequencerMove x s (confirmReset x s) := by
  unfold confirmReset
  split
  · unfold classifyPulse
    split
    · exact .pulseTooShort hp ‹_› ‹_›
    · exact .pulseValid hp ‹_› (by omega)
  · have hx : x = false := by simpa using ‹¬x = true›
    dsimp only
    split
    · exact .pulseTooLong hp hx ‹_›
    · exact .pulseGoesOn hp hx (by omega)

theorem sequencerMove_presDelay (x : Bool) {s : State} (hp : s.phase = .presDelay) :
    SequencerMove x s (presDelay s) := by
  unfold presDelay
  rcases delayTick_cases s with ⟨_, he, rfl, h0⟩ | ⟨_, he, rfl, h0⟩ <;> rw [he]
  · exact .presenceStarts hp h0
  · exact .waits (by simp [hp]) h0

theorem sequencerMove_presDrive (x : Bool) {s : State} (hp : s.phase = .presDrive) :
    SequencerMove x s (presDrive s) := by
  unfold presDrive
  rcases delayTick_cases s with ⟨_, he, rfl, h0⟩ | ⟨_, he, rfl, h0⟩ <;> rw [he]
  · exact .presenceEnds hp h0
  · exact .waits (by simp [hp]) h0

theorem sequencerMove_presRelease (x : Bool) {s : State} (hp : s.phase = .presRelease) :
    SequencerMove x s (presRelease x s) := by
  unfold presRelease
  cases x with
  | true =>
    rw [waitWhile_seen s (by decide)]
    exact .presenceReleased hp rfl
  | false =>
    rw [waitWhile_level]
    rcases delayTick_cases s with ⟨_, he, rfl, h0⟩ | ⟨_, he, rfl, h0⟩ <;> rw [he]
    · exact .presenceHeldLow hp rfl h0
    · exact .waits (by simp [hp]) h0

/-- Everything a tick of a running cycle can do (R37). -/
theorem sequencerMove_of_outcome {x : Bool} {s t : State} (hi : s.phase ≠ .idle)
    (h : (sequencer x s).outcome = .next t) : SequencerMove x s t := by
  cases hb : s.phase.isByte with
  | true =>
    rw [sequencer_byte hb] at h
    exact sequencerMove_of_bitEngine hb h
  | false =>
    cases hp : s.phase with
    | idle => exact absurd hp hi
    | waitReset =>
      simp only [sequencer, hp, Action.outcome_move, Host.Outcome.next.injEq] at h
      exact h ▸ sequencerMove_waitReset x hp
    | confirmReset =>
      simp only [sequencer, hp, Action.outcome_move, Host.Outcome.next.injEq] at h
      exact h ▸ sequencerMove_confirmReset x hp
    | presDelay =>
      simp only [sequencer, hp, Action.outcome_move, Host.Outcome.next.injEq] at h
      exact h ▸ sequencerMove_presDelay x hp
    | presDrive =>
      simp only [sequencer, hp, Action.outcome_move, Host.Outcome.next.injEq] at h
      exact h ▸ sequencerMove_presDrive x hp
    | presRelease =>
      simp only [sequencer, hp, Action.outcome_move, Host.Outcome.next.injEq] at h
      exact h ▸ sequencerMove_presRelease x hp
    | rxCmd | dRxCmd | dRxTa1 | dRxTa2 | dTxCrc1 | dTxData | dTxCrc2 =>
      simp [hp, Phase.isByte, Phase.isReceive, Phase.isSend] at hb

/-- Everything a step can do: a reset, a tick in `IDLE`, or a tick of a running cycle. -/
theorem step_moves {s t : State} (h : step s = .next t) :
    ((nextInput s).rst = true ∧ t = resetTick (afterInput s)) ∨
    ((nextInput s).rst = false ∧ s.phase = .idle ∧ IdleMove (afterInput s) t) ∨
    ((nextInput s).rst = false ∧ s.phase ≠ .idle ∧ SequencerMove (lineLevel s) (afterInput s) t) := by
  obtain ⟨-, ⟨hr, rfl⟩ | ⟨hr, hp, -, he⟩ | ⟨hr, hp, -, rfl⟩ | ⟨hr, hp, he⟩⟩ := step_cases h
  · exact .inl ⟨hr, rfl⟩
  · exact .inr (.inl ⟨hr, hp, idleMove_of_exec (decodeHost_format _ _ _) hp he⟩)
  · exact .inr (.inl ⟨hr, hp, .answers HostOut.none⟩)
  · exact .inr (.inr ⟨hr, hp, sequencerMove_of_outcome hp he⟩)

/-! ### The setters write one field each (R87, R283, R284) -/

theorem memWrite_eq (s : State) (i : Nat) (v : Byte) : memWrite s i v = { s with mem := (memWrite s i v).mem } := by
  unfold memWrite
  split <;> rfl

theorem setPageUsedOp_eq (a : Byte) (s : State) :
    setPageUsedOp a s = { s with status := (setPageUsedOp a s).status } := by
  unfold setPageUsedOp
  split <;> rfl

theorem setPageRedirectionOp_eq (a b : Byte) (s : State) :
    setPageRedirectionOp a b s = { s with status := (setPageRedirectionOp a b s).status } := by
  unfold setPageRedirectionOp
  split <;> rfl

/-! ### The successors of a phase (R37) -/

/-- A cycle starts from `IDLE`, and nothing else leaves it. -/
theorem IdleMove.phase_eq {s t : State} (h : IdleMove s t) : t.phase = s.phase ∨ t.phase = .waitReset := by
  cases h with
  | startsCycle => exact .inr rfl
  | answers | clearsError | setsAttached | setsSpeed | clearsStatus => exact .inl rfl
  | writesMemory i v => exact .inl (memWrite_phase s i v)
  | marksPage a => rw [setPageUsedOp_eq]; exact .inl rfl
  | redirectsPage a b => rw [setPageRedirectionOp_eq]; exact .inl rfl

/-- Every byte phase can be left by an error or a reset in progress. -/
theorem Phase.exits_of_isByte {p : Phase} (h : p.isByte = true) : .idle ∈ successors p ∧ .confirmReset ∈ successors p := by
  revert h
  cases p <;> decide

theorem slotStart_phase (s : State) : (slotStart s).phase = s.phase := by
  unfold slotStart
  split
  · split <;> rfl
  · rfl

theorem ByteEnd.mayFollow {u t : State} (h : ByteEnd u t) : mayFollow u.phase t.phase := by
  cases h with
  | skipRom hp | busOther hp | command hp | firstAddress hp | readMemory hp | silent hp | commandCrc hp
  | commandCrcPastEnd hp | data hp | lastData hp | dataCrc hp =>
    rw [hp]
    simp [Machine.mayFollow, successors, receivedCommand, receivedTa1]

theorem SequencerMove.mayFollow {x : Bool} {s t : State} (h : SequencerMove x s t) : mayFollow s.phase t.phase := by
  cases h with
  | settles | pulseGoesOn | waits | lineHigh => exact .inl rfl
  | pulseStarts hp | idleTimesOut hp | pulseTooShort hp | pulseValid hp | pulseTooLong hp | presenceStarts hp
  | presenceEnds hp | presenceReleased hp | presenceHeldLow hp =>
    rw [hp]
    simp [Machine.mayFollow, successors]
  | becomesReset hp => exact .inr (Phase.exits_of_isByte hp).2
  | slotStarts => exact .inl (slotStart_phase s)
  | slotNeverStarts hp => exact .inr (Phase.exits_of_isByte hp).1
  | @nextSlot v u _ hu =>
    rw [hu.storeBit_eq]
    exact .inl rfl
  | @byteEnds v u _ _ hu _ ht =>
    have hf := ht.mayFollow
    rwa [hu.storeBit_eq] at hf

/-- Settles O52: each kind of tick ends in its own phase, in `IDLE` only POLL leaves, and R37 lists the rest. -/
theorem phasesFollowTheirSuccessors : Obligations.PhasesFollowTheirSuccessors := by
  intro s t h hr
  obtain ⟨hr', -⟩ | ⟨-, hp, hm⟩ | ⟨-, -, hm⟩ := step_moves h
  · simp [hr] at hr'
  · obtain he | he := hm.phase_eq
    · exact .inl he
    · rw [he, hp]
      exact .inr (by decide)
  · exact hm.mayFollow

/-! ### The storage invariant (R58, R47 to R49, R51) -/

/-- The invariant speaks of the status block, memory and the geometry alone. -/
theorem StorageInv.congr {s t : State} (h : StorageInv s) (hc : t.cfg = s.cfg) (hs : t.status = s.status)
    (hm : t.mem = s.mem) : StorageInv t where
  marker := by rw [statusGet_congr hs]; exact h.marker
  reserved := by rw [statusGet_congr hs, statusGet_congr hs]; exact h.reserved
  lowBits := by rw [statusGet_congr hs]; exact h.lowBits
  absentPages := by rw [statusGet_congr hs, hc]; exact h.absentPages
  redirections := fun p hp => by rw [statusGet_congr hs, hc]; exact h.redirections p hp
  memCanonical := by rw [hm]; exact h.memCanonical
  memInside := by rw [hm, hc]; exact h.memInside

/-- With the status block of reset only memory is left to check. -/
theorem StorageInv.of_statusInit {s : State} (hs : s.status = statusInit) (hw : Memory.wf s.mem = true)
    (hb : Memory.below s.cfg.geometry.memSize s.mem = true) : StorageInv s where
  marker := statusGet_of_statusInit hs 7
  reserved := ⟨statusGet_of_statusInit hs 5, statusGet_of_statusInit hs 6⟩
  lowBits := by rw [statusGet_of_statusInit hs]; decide
  absentPages := fun p _ hp => by
    rw [statusGet_of_statusInit hs]
    interval_cases p <;> rfl
  redirections := fun p hp => .inl (by rw [statusGet_of_statusInit hs, if_neg (by omega)])
  memCanonical := hw
  memInside := hb

theorem StorageInv.resetOf (c : Cfg) : StorageInv (State.resetOf c) :=
  .of_statusInit rfl (resetOf_mem_wf c) rfl

theorem StorageInv.memWrite {s : State} (h : StorageInv s) (i : Nat) (v : Byte) : StorageInv (memWrite s i v) := by
  have hw := memWrite_wf (i := i) (v := v) h.memCanonical
  have hb := memWrite_below (i := i) (v := v) h.memInside
  rw [memWrite_eq]
  exact { h with memCanonical := hw, memInside := hb }

/-- A write to the first five status bytes keeps the invariant if the byte written is legal at its place. -/
theorem StorageInv.statusSet {s : State} (h : StorageInv s) {i : Nat} {v : Byte} (hi : i < 5)
    (hprot : i = 0 → v &&& 0x0F = 0x0F ∧
      ∀ p, s.cfg.geometry.pageCount ≤ p → p < 4 → v.getLsbD (p + 4) = true)
    (hredir : ∀ p, i = 1 + p → redirectionLegal s.cfg.geometry p v) : StorageInv (statusSet s i v) := by
  have hget (j : Nat) : statusGet (Machine.statusSet s i v) j = if j = i then v else statusGet s j :=
    statusGet_statusSet s i v j (by omega)
  exact {
    marker := by rw [hget, if_neg (by omega)]; exact h.marker
    reserved := by rw [hget, hget, if_neg (by omega), if_neg (by omega)]; exact h.reserved
    lowBits := by
      rw [hget]
      split
      · exact (hprot (Eq.symm ‹_›)).1
      · exact h.lowBits
    absentPages := fun p hp hp4 => by
      rw [hget]
      split
      · exact (hprot (Eq.symm ‹_›)).2 p hp hp4
      · exact h.absentPages p hp hp4
    redirections := fun p hp => by
      rw [hget]
      split
      · exact hredir p (Eq.symm ‹_›)
      · exact h.redirections p hp
    memCanonical := h.memCanonical
    memInside := h.memInside }

theorem lowNibble_iff (v : Byte) : v &&& 0x0F = 0x0F ↔ ∀ j, j < 4 → v.getLsbD j = true := by
  revert v
  decide +kernel

/-- Marking a page clears its protection bit, which is above the low bits and is no absent page's (R283). -/
theorem StorageInv.setPageUsedOp {s : State} (h : StorageInv s) (a : Byte) : StorageInv (setPageUsedOp a s) := by
  cases hv : validPage s a with
  | false => simpa [Machine.setPageUsedOp, hv] using h
  | true =>
    have ha : a.toNat < s.cfg.geometry.pageCount := by simpa [validPage] using hv
    have he : Machine.setPageUsedOp a s = Machine.statusSet s 0 (setBit (statusGet s 0) (a.toNat + 4) false) := by
      simp [Machine.setPageUsedOp, hv, setBit]
    have hbit (j : Nat) (hj : j < 8) (hja : j ≠ a.toNat + 4) :
        (setBit (statusGet s 0) (a.toNat + 4) false).getLsbD j = (statusGet s 0).getLsbD j := by
      rw [getLsbD_setBit _ _ _ hj, if_neg hja]
    rw [he]
    refine h.statusSet (by omega) (fun _ => ⟨?_, fun p hp hp4 => ?_⟩) (fun p hp => by omega)
    · rw [lowNibble_iff]
      intro j hj
      rw [hbit j (by omega) (by omega)]
      exact (lowNibble_iff _).mp h.lowBits j hj
    · rw [hbit (p + 4) (by omega) (by omega)]
      exact h.absentPages p hp hp4

/-- A redirection writes FF or the complement of another valid page into a valid page's byte (R284). -/
theorem StorageInv.setPageRedirectionOp {s : State} (h : StorageInv s) (hc : s.cfg.geometry.pageCount ≤ 4) (a b : Byte) :
    StorageInv (setPageRedirectionOp a b s) := by
  cases hv : redirectionOk a b s with
  | false => simpa [Machine.setPageRedirectionOp, hv] using h
  | true =>
    obtain ⟨ha, hb⟩ : a.toNat < s.cfg.geometry.pageCount ∧ b.toNat < s.cfg.geometry.pageCount := by
      simpa [redirectionOk, validPage] using hv
    rw [Machine.setPageRedirectionOp, if_pos hv]
    refine h.statusSet (by omega) (fun h0 => by omega) (fun p hp => ?_)
    obtain rfl : a.toNat = p := by omega
    split
    · exact .inl rfl
    · rename_i hab
      exact .inr ⟨ha, b.toNat, hb, fun hba => hab (BitVec.eq_of_toNat_eq hba.symm), by simp⟩

theorem StorageInv.idleMove {s t : State} (h : StorageInv s) (hc : s.cfg.geometry.pageCount ≤ 4) (hm : IdleMove s t) :
    StorageInv t := by
  cases hm with
  | answers | startsCycle | clearsError | setsAttached | setsSpeed => exact h.congr rfl rfl rfl
  | writesMemory i v => exact (h.memWrite i v).congr rfl rfl rfl
  | marksPage a => exact (h.setPageUsedOp a).congr rfl rfl rfl
  | redirectsPage a b => exact (h.setPageRedirectionOp hc a b).congr rfl rfl rfl
  | clearsStatus => exact .of_statusInit rfl h.memCanonical h.memInside

theorem ByteEnd.storageKept {u t : State} (h : ByteEnd u t) : storageKept u t := by
  cases h <;> exact ⟨rfl, rfl, rfl, rfl⟩

theorem slotStart_storageKept (s : State) : storageKept s (slotStart s) := by
  unfold slotStart
  split
  · split <;> exact ⟨rfl, rfl, rfl, rfl⟩
  · exact ⟨rfl, rfl, rfl, rfl⟩

/-- A running cycle leaves storage, attachment and configuration alone (R96, R244, R367). -/
theorem SequencerMove.storageKept {x : Bool} {s t : State} (h : SequencerMove x s t) : storageKept s t := by
  cases h with
  | pulseStarts | settles | idleTimesOut | pulseTooShort | pulseValid | pulseGoesOn | pulseTooLong | waits | presenceStarts
  | presenceEnds | presenceReleased | presenceHeldLow | lineHigh | becomesReset | slotNeverStarts =>
    exact ⟨rfl, rfl, rfl, rfl⟩
  | slotStarts => exact slotStart_storageKept s
  | @nextSlot v u _ hu =>
    rw [hu.storeBit_eq]
    exact ⟨rfl, rfl, rfl, rfl⟩
  | @byteEnds v u _ _ hu _ ht =>
    have hk := ht.storageKept
    rwa [hu.storeBit_eq] at hk

/-- Settles O49: a reset restores the invariant, operations in `IDLE` write legal bytes, and a running cycle writes no storage. -/
theorem storageInvariantKept : Obligations.StorageInvariantKept := by
  intro s t hinv h
  have hs : StorageInv (afterInput s) := hinv.congr rfl rfl rfl
  obtain ⟨_, hpages, _⟩ := geometry_of_cfgOk (cfgOk_of_step h)
  obtain ⟨-, rfl⟩ | ⟨-, -, hm⟩ | ⟨-, -, hm⟩ := step_moves h
  · exact (StorageInv.resetOf s.cfg).congr rfl rfl rfl
  · exact hs.idleMove hpages hm
  · obtain ⟨hmem, hstatus, -, hcfg⟩ := hm.storageKept
    exact hs.congr hcfg hstatus hmem

/-! ### The sequencer's invariant (R58) in each sort of phase -/

/-- The part of the sequencer's invariant that holds in every phase alike (R58 (e), R44, R45, R84). -/
structure RegistersFit (s : State) : Prop where
  err : s.err ≠ .resetInProgress ∧ s.err ≠ .incorrectSlaveUsage
  hi : s.hi ≤ s.cfg.profile.settleMin
  low : s.low < 2 ^ s.cfg.cntW
  addr : s.addr.toNat ≤ 256

theorem SequencerInv.registersFit {s : State} (h : SequencerInv s) : RegistersFit s :=
  ⟨h.storedErr, h.hiFits, h.lowFits, h.addrFits⟩

theorem Phase.isSend_of_not_isByte {p : Phase} (h : p.isByte = false) : p.isSend = false := by
  rw [Phase.isByte, Bool.or_eq_false_iff] at h
  exact h.2

theorem Phase.ne_of_isByte {p q : Phase} (h : p.isByte = true) (hq : q.isByte = false) : p ≠ q := by
  rintro rfl
  simp [h] at hq

/-- In `IDLE` the engine is at rest. -/
theorem SequencerInv.of_idle {s : State} (hr : RegistersFit s) (hp : s.phase = .idle) (hbt : s.bt = .waitHigh)
    (hbit : s.bit = 0) (hcnt : s.cnt = 0) (ho : s.oe = false) : SequencerInv s where
  drivesOnly := by simp [hp, ho, Phase.isSend]
  quiet := fun _ => ⟨hbt, hbit⟩
  idleCnt := fun _ => hcnt
  direction := by simp [hbt]
  storedErr := hr.err
  waiting := by simp [hp, Phase.waits]
  held := fun hi => absurd hp hi
  cntFits := by rw [hcnt]; exact Nat.two_pow_pos _
  hiFits := hr.hi
  lowFits := hr.low
  measuring := by simp [hp]
  addrFits := hr.addr
  addressed := by simp [hp]

/-- In reset detection and presence the bit engine is at rest. -/
theorem SequencerInv.of_quiet {s : State} (hr : RegistersFit s) (hp : s.phase.isByte = false) (hi : s.phase ≠ .idle)
    (ha : s.attached = true) (hbt : s.bt = .waitHigh) (hbit : s.bit = 0) (ho : s.oe = true ↔ s.phase = .presDrive)
    (hwait : s.phase ≠ .confirmReset → 1 ≤ s.cnt) (hcnt : s.cnt < 2 ^ s.cfg.cntW)
    (hlow : s.phase = .confirmReset → 1 ≤ s.low ∧ s.low < s.cfg.profile.resetTimeout) : SequencerInv s where
  drivesOnly := by simp [ho, Phase.isSend_of_not_isByte hp]
  quiet := fun _ => ⟨hbt, hbit⟩
  idleCnt := fun h => absurd h hi
  direction := by simp [hbt]
  storedErr := hr.err
  waiting := fun hw => hwait (by rintro hc; simp [hc, Phase.waits] at hw)
  held := fun _ => ha
  cntFits := hcnt
  hiFits := hr.hi
  lowFits := hr.low
  measuring := hlow
  addrFits := hr.addr
  addressed := fun h => by rw [h] at hp; cases hp

/-- In the quiet phases that wait on the counter. -/
theorem SequencerInv.of_wait {s : State} (hr : RegistersFit s)
    (hp : s.phase ∈ [Phase.waitReset, .presDelay, .presDrive, .presRelease]) (ha : s.attached = true)
    (hbt : s.bt = .waitHigh) (hbit : s.bit = 0) (ho : s.oe = true ↔ s.phase = .presDrive) (hl : counterLive s) :
    SequencerInv s := by
  have hne {q : Phase} (hq : q ∉ [Phase.waitReset, .presDelay, .presDrive, .presRelease]) : s.phase ≠ q := by
    rintro rfl
    exact hq hp
  have hquiet : s.phase.isByte = false := by
    revert hp
    cases s.phase <;> decide
  exact .of_quiet hr hquiet (hne (by decide)) ha hbt hbit ho (fun _ => hl.1) hl.2 (fun h => absurd h (hne (by decide)))

/-- In the measurement of a pulse, which has no wait: the pulse has begun and is below the limit (R228). -/
theorem SequencerInv.of_measuring {s : State} (hr : RegistersFit s) (hp : s.phase = .confirmReset) (ha : s.attached = true)
    (hbt : s.bt = .waitHigh) (hbit : s.bit = 0) (ho : s.oe = false) (hcnt : s.cnt < 2 ^ s.cfg.cntW)
    (hlow : 1 ≤ s.low ∧ s.low < s.cfg.profile.resetTimeout) : SequencerInv s :=
  .of_quiet hr (by rw [hp]; rfl) (by simp [hp]) ha hbt hbit (by simp [hp, ho]) (fun h => absurd hp h) hcnt (fun _ => hlow)

/-- In a byte phase the engine runs. -/
theorem SequencerInv.of_byte {s : State} (hr : RegistersFit s) (hp : s.phase.isByte = true) (ha : s.attached = true)
    (ho : s.oe = true ↔ s.phase.isSend = true ∧ s.bt = .drive)
    (hdir : (s.bt = .sample → s.phase.isReceive = true) ∧ (s.bt = .drive ∨ s.bt = .hold → s.phase.isSend = true))
    (hl : counterLive s) (haddr : s.phase = .dTxData → s.addr.toNat < s.cfg.geometry.memSize) : SequencerInv s where
  drivesOnly := by simp [ho, Phase.ne_of_isByte hp (q := .presDrive) rfl]
  quiet := fun h => by simp [hp] at h
  idleCnt := fun h => absurd h (Phase.ne_of_isByte hp rfl)
  direction := hdir
  storedErr := hr.err
  waiting := fun _ => hl.1
  held := fun _ => ha
  cntFits := hl.2
  hiFits := hr.hi
  lowFits := hr.low
  measuring := fun h => absurd h (Phase.ne_of_isByte hp rfl)
  addrFits := hr.addr
  addressed := haddr

/-- However a cycle aborts, with an error that may be stored (R362). -/
theorem SequencerInv.raise {e : ErrCode} {s : State} (hr : RegistersFit s)
    (he : e ≠ .resetInProgress ∧ e ≠ .incorrectSlaveUsage) : SequencerInv (raise e s) :=
  .of_idle { hr with err := he } rfl rfl rfl rfl rfl

/-- The end of a cycle without an error (R243). -/
theorem SequencerInv.finish {s : State} (hr : RegistersFit s) : SequencerInv (finish s) :=
  .of_idle { hr with } rfl rfl rfl rfl rfl

/-- The end of a cycle that no reset pulse came to (R227). -/
theorem SequencerInv.idleTimeout {s : State} (hr : RegistersFit s) : SequencerInv (idleTimeout s) :=
  .of_idle { hr with } rfl rfl rfl rfl rfl

theorem counterLive_slotMax {s : State} (hc : cfgOk s.cfg = true) :
    1 ≤ (bounds s).slotMax ∧ (bounds s).slotMax < 2 ^ s.cfg.cntW := by
  obtain ⟨_, _, _, _, _, _, _, hslot, _⟩ := profile_of_cfgOk hc
  exact hslot

/-- The entry of a byte phase with the line released (R164). -/
theorem SequencerInv.startByte {ph : Phase} {v : Byte} {s : State} (hc : cfgOk s.cfg = true) (hr : RegistersFit s)
    (ha : s.attached = true) (ho : s.oe = false) (hp : ph.isByte = true)
    (haddr : ph = .dTxData → s.addr.toNat < s.cfg.geometry.memSize) : SequencerInv (startByte ph v s) :=
  .of_byte { hr with } hp ha (by simp [ho]) (by simp) (counterLive_slotMax hc) haddr

/-! ### Every tick keeps it -/

theorem SequencerInv.resetOf (c : Cfg) : SequencerInv (State.resetOf c) :=
  .of_idle ⟨by simp, Nat.zero_le _, Nat.two_pow_pos _, by simp⟩ rfl rfl rfl rfl rfl

theorem SequencerInv.oe_of_quiet {s : State} (h : SequencerInv s) (hp : s.phase.isByte = false)
    (hd : s.phase ≠ .presDrive) : s.oe = false := by
  simpa [hd, Phase.isSend_of_not_isByte hp] using h.drivesOnly

/-- Between slots, in a wait of the engine, the line is released. -/
theorem SequencerInv.oe_of_byte {s : State} (h : SequencerInv s) (hp : s.phase.isByte = true) (hb : s.bt ≠ .drive) :
    s.oe = false := by
  simpa [hb, Phase.ne_of_isByte hp (q := .presDrive) rfl] using h.drivesOnly

/-- A state in `IDLE` whose registers differ only in what host operations write stays at rest. -/
theorem SequencerInv.idleMove {s t : State} (h : SequencerInv s) (hc : cfgOk s.cfg = true) (hp : s.phase = .idle)
    (hm : IdleMove s t) : SequencerInv t := by
  obtain ⟨hbt, hbit⟩ := h.quiet (by rw [hp]; rfl)
  have ho := h.oe_of_quiet (by rw [hp]; rfl) (by simp [hp])
  cases hm with
  | answers | setsSpeed | clearsStatus => exact { h with }
  | setsAttached => exact { h with held := fun hi => absurd hp hi }
  | clearsError => exact { h with storedErr := by simp }
  | startsCycle _ ha =>
    obtain ⟨_, _, _, _, _, _, _, _, _, _, _, _, _, hidle, _⟩ := profile_of_cfgOk hc
    exact .of_wait ⟨by simp, Nat.zero_le _, h.lowFits, h.addrFits⟩ (by simp) ha hbt hbit (by simp [ho]) hidle
  | writesMemory => rw [memWrite_eq]; exact { h with }
  | marksPage => rw [setPageUsedOp_eq]; exact { h with }
  | redirectsPage => rw [setPageRedirectionOp_eq]; exact { h with }

theorem countDown_cnt_lt (s : State) : (countDown s).cnt < 2 ^ s.cfg.cntW :=
  Nat.mod_lt _ (Nat.two_pow_pos _)

/-- What the invariant leaves of a state when a slot is over: the byte's end builds on it (R172). -/
structure SlotOver (s : State) : Prop where
  registers : RegistersFit s
  attached : s.attached = true
  released : s.oe = false
  addressed : s.phase = .dTxData → s.addr.toNat < s.cfg.geometry.memSize

theorem SlotEnd.oe_eq {x : Bool} {s u : State} {v : Option Bool} (hu : SlotEnd x s v u) (h : SequencerInv s)
    (hp : s.phase.isByte = true) : u.oe = false := by
  cases hu with
  | sampledOne hb | sampledZero hb | held hb => exact h.oe_of_byte hp (by simp [hb])
  | driven => rfl

theorem SlotEnd.slotOver {x : Bool} {s u : State} {v : Option Bool} (hu : SlotEnd x s v u) (h : SequencerInv s)
    (hp : s.phase.isByte = true) : SlotOver (storeBit v u) := by
  have ho := hu.oe_eq h hp
  rw [hu.storeBit_eq]
  exact ⟨⟨h.storedErr, h.hiFits, h.lowFits, h.addrFits⟩, h.held (Phase.ne_of_isByte hp rfl), ho, h.addressed⟩

/-- However a byte ends, the next phase finds the invariant. The address counts up from a byte's value to at most the end of
memory (R277, R278). -/
theorem SlotOver.byteEnd {u t : State} (h : SlotOver u) (hc : cfgOk u.cfg = true) (ht : ByteEnd u t) : SequencerInv t := by
  obtain ⟨hr, ha, ho, hdata⟩ := h
  have hta1 : (u.ta1.zeroExtend 9).toNat = u.ta1.toNat := BitVec.toNat_setWidth_of_le (by omega)
  have hfirst : (u.ta1.zeroExtend 9).toNat ≤ 256 := by omega
  have hnext (hp : u.phase = .dTxData) : (u.addr + 1).toNat ≤ 256 := by
    have hin := hdata hp
    have hsize := memSize_le_256 hc
    bv_omega
  cases ht with
  | skipRom | command | firstAddress | readMemory => exact .startByte hc { hr with } ha ho rfl (by simp)
  | busOther => exact .raise { hr with } (by simp)
  | silent | dataCrc => exact .finish { hr with }
  | commandCrc _ hlt => exact .startByte hc { hr with addr := hfirst } ha ho rfl (fun _ => hta1.symm ▸ hlt)
  | commandCrcPastEnd => exact .startByte hc { hr with addr := hfirst } ha ho rfl (by simp)
  | data hp hlt => exact .startByte hc { hr with addr := hnext hp } ha ho rfl (fun _ => hlt)
  | lastData hp => exact .startByte hc { hr with addr := hnext hp } ha ho rfl (by simp)

/-- The start of a slot drives the line exactly for a 0 that is sent (R168). -/
theorem SequencerInv.slotStart {s : State} (h : SequencerInv s) (hc : cfgOk s.cfg = true) (hp : s.phase.isByte = true)
    (hb : s.bt = .waitFall) : SequencerInv (slotStart s) := by
  obtain ⟨_, _, _, _, _, _, _, _, hzero, hmin, hmax, _⟩ := profile_of_cfgOk hc
  have ho := h.oe_of_byte hp (by simp [hb])
  have ha := h.held (Phase.ne_of_isByte hp rfl)
  have hr := h.registersFit
  unfold Machine.slotStart
  cases hs : s.phase.isSend with
  | true =>
    rw [if_pos rfl]
    split
    · exact .of_byte { hr with } hp ha (by simp [ho]) (by simp [hs]) hmax h.addressed
    · exact .of_byte { hr with } hp ha (by simp [hs]) (by simp [hs]) hzero h.addressed
  | false =>
    have hrecv : s.phase.isReceive = true := by simpa [Phase.isByte, hs] using hp
    exact .of_byte { hr with } hp ha (by simp [ho]) (by simp [hrecv]) hmin h.addressed

theorem slotTimeoutError_stored (s : State) :
    slotTimeoutError s ≠ .resetInProgress ∧ slotTimeoutError s ≠ .incorrectSlaveUsage := by
  unfold slotTimeoutError
  split <;> decide

theorem highCount_le (x : Bool) (s : State) : highCount x s ≤ s.cfg.profile.settleMin := by
  unfold highCount
  split
  · exact Nat.min_le_right _ _
  · exact Nat.zero_le _

/-- Every tick of a running cycle keeps the invariant. -/
theorem SequencerInv.sequencerMove {x : Bool} {s t : State} (h : SequencerInv s) (hc : cfgOk s.cfg = true)
    (hi : s.phase ≠ .idle) (hm : SequencerMove x s t) : SequencerInv t := by
  obtain ⟨_, hreset, hresetMax, hpresence, hlimit, _, hpulse, hslot, _, _, hread, hcreditFits, hlimitFits, hidle, hhigh,
    hsettle⟩ := profile_of_cfgOk hc
  have hone : 1 < s.cfg.profile.resetTimeout := by omega
  have hcredit : 1 ≤ (bounds s).slotMax + (bounds s).readMax ∧
      (bounds s).slotMax + (bounds s).readMax < s.cfg.profile.resetTimeout := by omega
  have hdrive : 1 ≤ (bounds s).presenceMin ∧ (bounds s).presenceMin < 2 ^ s.cfg.cntW := by omega
  have hrelease : 1 ≤ (bounds s).presenceMax - (bounds s).presenceMin ∧
      (bounds s).presenceMax - (bounds s).presenceMin < 2 ^ s.cfg.cntW := by omega
  have hr := h.registersFit
  have ha := h.held hi
  cases hm with
  | pulseStarts hp =>
    obtain ⟨hbt, hbit⟩ := h.quiet (by rw [hp]; rfl)
    have ho := h.oe_of_quiet (by rw [hp]; rfl) (by simp [hp])
    exact .of_measuring { hr with low := hone.trans hlimitFits } rfl ha hbt hbit ho h.cntFits ⟨Nat.le_refl 1, hone⟩
  | settles _ _ h0 =>
    exact { h with
      idleCnt := fun h => absurd h hi
      waiting := fun _ => Nat.one_le_iff_ne_zero.mpr h0
      cntFits := countDown_cnt_lt s
      hiFits := highCount_le x s }
  | idleTimesOut => exact .idleTimeout { hr with hi := highCount_le x s }
  | pulseTooShort hp =>
    obtain ⟨hbt, hbit⟩ := h.quiet (by rw [hp]; rfl)
    have ho := h.oe_of_quiet (by rw [hp]; rfl) (by simp [hp])
    exact .of_wait { hr with hi := hsettle } (by simp) ha hbt hbit (by simp [ho]) hidle
  | pulseValid hp =>
    obtain ⟨hbt, hbit⟩ := h.quiet (by rw [hp]; rfl)
    have ho := h.oe_of_quiet (by rw [hp]; rfl) (by simp [hp])
    obtain ⟨_, _, _, _, _, hdelay, _⟩ := profile_of_cfgOk (s := { s with od := speedAfterReset s s.low }) hc
    exact .of_wait { hr with } (by simp) ha hbt hbit (by simp [ho]) hdelay
  | pulseGoesOn _ _ hl =>
    have hlow : counterValue s.cfg (s.low + 1) = s.low + 1 := Nat.mod_eq_of_lt (by omega)
    rw [hlow]
    exact { h with
      lowFits := hl.trans hlimitFits
      measuring := fun _ => ⟨Nat.le_add_left 1 s.low, hl⟩ }
  | pulseTooLong => exact .raise { hr with low := Nat.mod_lt _ (Nat.two_pow_pos _) } (by simp)
  | waits _ h0 =>
    exact { h with
      idleCnt := fun h => absurd h hi
      waiting := fun _ => Nat.one_le_iff_ne_zero.mpr h0
      cntFits := countDown_cnt_lt s }
  | presenceStarts hp =>
    obtain ⟨hbt, hbit⟩ := h.quiet (by rw [hp]; rfl)
    exact .of_wait { hr with } (by simp) ha hbt hbit (by simp) hdrive
  | presenceEnds hp =>
    obtain ⟨hbt, hbit⟩ := h.quiet (by rw [hp]; rfl)
    exact .of_wait { hr with } (by simp) ha hbt hbit (by simp) hrelease
  | presenceReleased hp =>
    have ho := h.oe_of_quiet (by rw [hp]; rfl) (by simp [hp])
    exact .startByte hc hr ha ho rfl (by simp)
  | presenceHeldLow => exact .raise { hr with } (by simp)
  | lineHigh hp hb =>
    have ho := h.oe_of_byte hp (by simp [hb])
    exact .of_byte { hr with } hp ha (by simp [ho]) (by simp) hhigh h.addressed
  | becomesReset hp hb =>
    have ho := h.oe_of_byte hp (by simp [hb])
    exact .of_measuring { hr with low := hcreditFits } rfl ha rfl rfl ho (countDown_cnt_lt s) hcredit
  | slotStarts hp hb => exact h.slotStart hc hp hb
  | slotNeverStarts => exact .raise { hr with } (slotTimeoutError_stored s)
  | @nextSlot v u hp hu =>
    have ho := hu.oe_eq h hp
    have hbounds : bounds u = bounds s := by cases hu <;> rfl
    rw [hu.storeBit_eq, hbounds]
    exact .of_byte { hr with } hp ha (by simp [ho]) (by simp) hslot h.addressed
  | @byteEnds v u _ hp hu _ ht =>
    have hcu : cfgOk (storeBit v u).cfg = true := by rw [hu.storeBit_eq]; exact hc
    exact (hu.slotOver h hp).byteEnd hcu ht

/-- Settles O48: reset, operations in `IDLE` and each tick of a running cycle keep the invariant. -/
theorem sequencerInvariantKept : Obligations.SequencerInvariantKept := by
  intro s t hinv h
  have hc := cfgOk_of_step h
  have hs : SequencerInv (afterInput s) := { hinv with }
  obtain ⟨-, rfl⟩ | ⟨-, hp, hm⟩ | ⟨-, hp, hm⟩ := step_moves h
  · exact { SequencerInv.resetOf s.cfg with }
  · exact hs.idleMove hc hp hm
  · exact hs.sequencerMove hc hp hm

/-! ### The invariants at reset -/

/-- A transaction's record is empty in `IDLE`. -/
theorem TransactionInv.of_idle {s : State} (h : s.phase = .idle) : TransactionInv s := by
  constructor <;> simp [h]

/-- Settles O51: `IDLE` with the engine at rest, the initial status block with empty memory, and no transaction. -/
theorem invariantsHoldAtReset : Obligations.InvariantsHoldAtReset :=
  fun c => ⟨.resetOf c, .resetOf c, .of_idle rfl⟩

end Sys2Proof.Machine
end

section
/-! SUPPORT. Proofs of the statements of spec/20_memory.md: translation in arithmetic (O27), its range (O29), and storage and
overdrive in a running cycle (O54). -/

namespace Sys2Proof.Machine

/-! ### Translation in arithmetic (R90, R91) -/

theorem pageOf_eq_div (g : Geometry) (a : Nat) : pageOf g a = a / 2 ^ g.pageShift :=
  Nat.shiftRight_eq_div_pow a g.pageShift

theorem offsetOf_eq_mod (g : Geometry) (a : Nat) : offsetOf g a = a % 2 ^ g.pageShift :=
  Nat.and_two_pow_sub_one_eq_mod a g.pageShift

/-- An offset has no bit in common with a shifted page, so the bitwise or of the two is their sum. -/
theorem offsetOf_or_page (g : Geometry) (a q : Nat) :
    offsetOf g a ||| q <<< g.pageShift = a % 2 ^ g.pageShift + q * 2 ^ g.pageShift := by
  have hlt : a % 2 ^ g.pageShift < 2 ^ g.pageShift := Nat.mod_lt a (Nat.two_pow_pos _)
  rw [offsetOf_eq_mod, Nat.lor_comm, ← Nat.shiftLeft_add_eq_or_of_lt hlt, Nat.shiftLeft_eq, Nat.add_comm]

/-- `translate` with quotient and remainder for shift and mask. -/
theorem translateAddr_eq (s : State) (a : Nat) : translateAddr s a =
    if 3 < a / 2 ^ s.cfg.geometry.pageShift then a
    else if statusGet s (1 + a / 2 ^ s.cfg.geometry.pageShift) = 0xFF then a
    else a % 2 ^ s.cfg.geometry.pageShift +
      (255 - (statusGet s (1 + a / 2 ^ s.cfg.geometry.pageShift)).toNat) * 2 ^ s.cfg.geometry.pageShift := by
  simp only [translateAddr, pageOf_eq_div, offsetOf_or_page, BitVec.toNat_not, gt_iff_lt]

/-- Settles O27: each clause selects its branch of `translate`. -/
theorem translationFollowsTheTable : Obligations.TranslationFollowsTheTable := by
  rintro s a p rfl
  refine ⟨fun hp => ?_, fun hp hr => ?_, fun hp hr => ?_⟩
  · rw [translateAddr_eq, if_pos hp]
  · rw [translateAddr_eq, if_neg (by omega), if_pos hr]
  · rw [translateAddr_eq, if_neg (by omega), if_neg hr]

/-! ### The range of a translated address (R94, R86) -/

/-- The complement of a legal redirection byte is a page of the array (R58 (d)). -/
theorem redirectionLegal.destination_lt {g : Geometry} {p : Nat} {r : Byte} (h : redirectionLegal g p r) (hr : r ≠ 0xFF) :
    255 - r.toNat < g.pageCount := by
  obtain hff | ⟨-, q, hq, -, rfl⟩ := h
  · exact absurd hff hr
  · rw [BitVec.toNat_not, BitVec.toNat_ofNat]
    omega

/-- An offset into a page below `n` is an address below the end of `n` pages. -/
theorem offset_add_page_lt (k a : Nat) {q n : Nat} (h : q < n) : a % 2 ^ k + q * 2 ^ k < n * 2 ^ k :=
  calc a % 2 ^ k + q * 2 ^ k < 2 ^ k + q * 2 ^ k := Nat.add_lt_add_right (Nat.mod_lt a (Nat.two_pow_pos k)) _
    _ = (q + 1) * 2 ^ k := by ring
    _ ≤ n * 2 ^ k := Nat.mul_le_mul_right _ h

/-- With legal redirection bytes translation maps the paged range into itself (R94). -/
theorem StorageInv.translateAddr_lt {s : State} (h : StorageInv s) {a : Nat}
    (ha : a < s.cfg.geometry.pageCount * 2 ^ s.cfg.geometry.pageShift) :
    translateAddr s a < s.cfg.geometry.pageCount * 2 ^ s.cfg.geometry.pageShift := by
  rw [translateAddr_eq]
  split
  · exact ha
  · split
    · exact ha
    · exact offset_add_page_lt _ _ ((h.redirections _ (by omega)).destination_lt ‹_›)

/-- Past the array every byte reads FF (R86). -/
theorem memRead_past_end {s : State} {i : Nat} (h : s.cfg.geometry.memSize ≤ i) : memRead s i = 0xFF :=
  if_neg (by omega)

/-- Settles O29: the paged range is kept, it ends at 256 or below (R10), and `MemRead` bounds what is read. -/
theorem translationStaysInRange : Obligations.TranslationStaysInRange := by
  intro s a hc hinv ha
  obtain ⟨-, -, -, -, hrange, -⟩ := geometry_of_cfgOk hc
  have ht := hinv.translateAddr_lt ha
  exact ⟨ht, by omega, memRead_past_end⟩

/-! ### Storage and overdrive in a running cycle (R96, R230, R367) -/

theorem memRead_congr {s t : State} (hc : t.cfg = s.cfg) (hm : t.mem = s.mem) (i : Nat) : memRead t i = memRead s i := by
  rw [memRead, memRead, hc, hm]

theorem ByteEnd.od_eq {u t : State} (h : ByteEnd u t) : t.od = u.od := by
  cases h <;> rfl

/-- The start of a slot writes `bt`, `oe` and `cnt` alone (R168). -/
theorem slotStart_eq (s : State) :
    slotStart s = { s with bt := (slotStart s).bt, oe := (slotStart s).oe, cnt := (slotStart s).cnt } := by
  unfold slotStart
  split
  · split <;> rfl
  · rfl

/-- After a reset pulse the speed is overdrive only if it was before (R230). -/
theorem od_of_speedAfterReset {s : State} {d : Nat} (h : speedAfterReset s d = true) : s.od = true := by
  rw [speedAfterReset, Bool.and_eq_true] at h
  exact h.1

/-- In a running cycle only the valid reset pulse, which goes on to the presence delay, writes the overdrive flag. -/
theorem SequencerMove.od_cases {x : Bool} {s t : State} (h : SequencerMove x s t) :
    t.od = s.od ∨ (t.phase = .presDelay ∧ t.od = speedAfterReset s s.low) := by
  cases h with
  | pulseValid => exact .inr ⟨rfl, rfl⟩
  | pulseStarts | settles | idleTimesOut | pulseTooShort | pulseGoesOn | pulseTooLong | waits | presenceStarts
  | presenceEnds | presenceReleased | presenceHeldLow | lineHigh | becomesReset | slotNeverStarts =>
    exact .inl rfl
  | slotStarts =>
    rw [slotStart_eq]
    exact .inl rfl
  | @nextSlot v u _ hu =>
    rw [hu.storeBit_eq]
    exact .inl rfl
  | @byteEnds v u _ _ hu _ ht =>
    have hod := ht.od_eq
    rw [hu.storeBit_eq] at hod
    exact .inl hod

/-- Settles O54: a tick of a running cycle keeps storage, reads go by storage and configuration alone, and the one write of the
overdrive flag can only clear it. -/
theorem storageKeptInCycle : Obligations.StorageKeptInCycle := by
  intro s t h hr hp
  obtain ⟨hr', -⟩ | ⟨-, hp', -⟩ | ⟨-, -, hm⟩ := step_moves h
  · simp [hr] at hr'
  · exact absurd hp' hp
  · have hk : storageKept s t := hm.storageKept
    obtain ⟨hmem, -, -, hcfg⟩ := hm.storageKept
    refine ⟨hk, memRead_congr hcfg hmem, fun hod => ?_⟩
    obtain he | ⟨-, he⟩ := hm.od_cases
    · exact he.symm.trans hod
    · exact od_of_speedAfterReset (he.symm.trans hod)

end Sys2Proof.Machine
end

section
/-! SUPPORT. Proofs of the statements of spec/30_encoding.md: decoding against encoding (O1, O2, O3), the device commands' two
meanings (O10, O12), and the record of a read transaction (O50). -/

namespace Sys2Proof

/-! ### Bytes and values (R132) -/

/-- The value of a number's first `n` bytes is the number modulo `256 ^ n`. -/
theorem valueOf_bytesOf (n w : Nat) : valueOf (bytesOf n w) = w % 256 ^ n := by
  induction n generalizing w with
  | zero => simp [bytesOf, valueOf, Nat.mod_one]
  | succ n ih =>
    have hsplit : w % 256 ^ (n + 1) = w % 256 + 256 * (w / 256 % 256 ^ n) := by rw [Nat.pow_succ', Nat.mod_mul]
    rw [bytesOf, valueOf, ih, BitVec.toNat_ofNat, hsplit]

/-- A `host20` value is the sum of its three shifted fields. -/
theorem valueOf_hostBytes {op : Nat} (hop : op < 16) (a b : Byte) :
    valueOf (hostBytes op a b) = op + a.toNat * 2 ^ 4 + b.toNat * 2 ^ 12 := by
  rw [hostBytes, valueOf_bytesOf]
  omega

/-! ### What each decoder gives -/

theorem decodeBus_of_ne {c : Byte} (h : c ≠ 0xCC) : decodeBus c = .busOther c := if_neg h

theorem decodeDev_of_ne {cmd : Byte} (h : cmd ≠ 0xF0) (ta1 ta2 : Byte) : decodeDev cmd ta1 ta2 = .devOther cmd ta1 ta2 :=
  if_neg h

/-- The fields of a `host20` value are what the host port's decoder reads (R128). -/
theorem decode_host20 {b0 b1 b2 a b : Byte} {op : Nat} (hop : op < 16)
    (h : valueOf [b0, b1, b2] = op + a.toNat * 2 ^ 4 + b.toNat * 2 ^ 12) :
    decode .host20 [b0, b1, b2] = .ok (decodeHost (BitVec.ofNat 4 op) a b) := by
  have hfits : valueOf [b0, b1, b2] < 2 ^ 20 := by omega
  have hopField : BitVec.ofNat 4 (valueOf [b0, b1, b2]) = BitVec.ofNat 4 op := by
    apply BitVec.eq_of_toNat_eq
    simp only [BitVec.toNat_ofNat]
    omega
  have haField : BitVec.ofNat 8 (valueOf [b0, b1, b2] / 2 ^ 4) = a := by
    apply BitVec.eq_of_toNat_eq
    rw [BitVec.toNat_ofNat]
    omega
  have hbField : BitVec.ofNat 8 (valueOf [b0, b1, b2] / 2 ^ 12) = b := by
    apply BitVec.eq_of_toNat_eq
    rw [BitVec.toNat_ofNat]
    omega
  simp only [decode, if_pos hfits, hopField, haField, hbField]

theorem decode_hostBytes {op : Nat} (hop : op < 16) (a b : Byte) :
    decode .host20 (hostBytes op a b) = .ok (decodeHost (BitVec.ofNat 4 op) a b) :=
  decode_host20 hop (valueOf_hostBytes hop a b)

/-- Settles O1: on the line the byte selects its branch; on the host port the fields are read back, and the code selects the row. -/
theorem decodeOfEncode : Obligations.DecodeOfEncode := by
  intro i hwf
  cases i with
  | skipRom | readMemory => rfl
  | busOther cmd => exact congrArg _ (decodeBus_of_ne (by simpa [Instr.wf] using hwf))
  | devOther cmd ta1 ta2 => exact congrArg _ (decodeDev_of_ne (by simpa [Instr.wf] using hwf) ta1 ta2)
  | nop | poll | clearError | attach | detach | setOd | memWrite | memRead | setPageUsed | setPageRedir | getPageRedir
  | clearStatus | statusRead | translate | hostRsvd14 | hostRsvd15 => exact decode_hostBytes (by decide) _ _

/-! ### What decodes (R125, R126, R128) -/

/-- What each format's byte strings decode to; `decodes_of_decode` ties it to `decode`. -/
inductive Decodes : Format → List Byte → Instr → Prop
  | bus (c : Byte) : Decodes .bus8 [c] (decodeBus c)
  | dev (cmd ta1 ta2 : Byte) : Decodes .dev24 [cmd, ta1, ta2] (decodeDev cmd ta1 ta2)
  | host (b0 b1 b2 : Byte) (hpad : valueOf [b0, b1, b2] < 2 ^ 20) : Decodes .host20 [b0, b1, b2]
      (decodeHost (BitVec.ofNat 4 (valueOf [b0, b1, b2])) (BitVec.ofNat 8 (valueOf [b0, b1, b2] / 2 ^ 4))
        (BitVec.ofNat 8 (valueOf [b0, b1, b2] / 2 ^ 12)))

/-- A string that decodes has its format's length and is read by the format's decoder. -/
theorem decodes_of_decode {f : Format} {bytes : List Byte} {i : Instr} (h : decode f bytes = .ok i) :
    Decodes f bytes i := by
  unfold decode at h
  split at h
  · obtain rfl := Except.ok.inj h
    exact .bus _
  · obtain rfl := Except.ok.inj h
    exact .dev _ _ _
  · dsimp only at h
    split at h
    · obtain rfl := Except.ok.inj h
      exact .host _ _ _ ‹_›
    · cases h
  · cases h

/-- The bus layer's decoder loses no bit (R125). -/
theorem decodeBus_encodes (c : Byte) :
    (decodeBus c).wf = true ∧ (decodeBus c).format = .bus8 ∧ encode (decodeBus c) = [c] := by
  unfold decodeBus
  split
  · rename_i h
    exact ⟨rfl, rfl, h ▸ rfl⟩
  · rename_i h
    exact ⟨by simpa [Instr.wf] using h, rfl, rfl⟩

/-- The device's decoder loses no bit (R126). -/
theorem decodeDev_encodes (cmd ta1 ta2 : Byte) :
    (decodeDev cmd ta1 ta2).wf = true ∧ (decodeDev cmd ta1 ta2).format = .dev24 ∧
    encode (decodeDev cmd ta1 ta2) = [cmd, ta1, ta2] := by
  unfold decodeDev
  split
  · rename_i h
    exact ⟨rfl, rfl, h ▸ rfl⟩
  · rename_i h
    exact ⟨by simpa [Instr.wf] using h, rfl, rfl⟩

/-- Every operation of the host port is well-formed: the port has no catch-all row (R128). -/
theorem Instr.wf_of_host20 {i : Instr} (h : i.format = .host20) : i.wf = true := by
  cases i with
  | skipRom | busOther | readMemory | devOther => cases h
  | nop | poll | clearError | attach | detach | setOd | memWrite | memRead | setPageUsed | setPageRedir | getPageRedir
  | clearStatus | statusRead | translate | hostRsvd14 | hostRsvd15 => rfl

/-- The host port's decoder keeps the operation code, with some operands (R128). -/
theorem encode_decodeHost (op : BitVec 4) (a b : Byte) :
    ∃ a' b', encode (decodeHost op a b) = hostBytes op.toNat a' b' := by
  have hop := op.isLt
  unfold decodeHost
  interval_cases op.toNat <;> exact ⟨_, _, rfl⟩

/-- Settles O2: the line's decoders lose nothing, and the host port's lowest field is the code. -/
theorem encodeOfDecode : Obligations.EncodeOfDecode := by
  intro f bytes i h
  cases decodes_of_decode h with
  | bus c =>
    obtain ⟨hwf, hformat, hencode⟩ := decodeBus_encodes c
    exact ⟨hwf, hformat, fun _ => hencode, by simp⟩
  | dev cmd ta1 ta2 =>
    obtain ⟨hwf, hformat, hencode⟩ := decodeDev_encodes cmd ta1 ta2
    exact ⟨hwf, hformat, fun _ => hencode, by simp⟩
  | host b0 b1 b2 =>
    have hformat := Machine.decodeHost_format (BitVec.ofNat 4 (valueOf [b0, b1, b2]))
      (BitVec.ofNat 8 (valueOf [b0, b1, b2] / 2 ^ 4)) (BitVec.ofNat 8 (valueOf [b0, b1, b2] / 2 ^ 12))
    refine ⟨Instr.wf_of_host20 hformat, hformat, by simp, fun _ => ?_⟩
    obtain ⟨a, b, hencode⟩ := encode_decodeHost (BitVec.ofNat 4 (valueOf [b0, b1, b2]))
      (BitVec.ofNat 8 (valueOf [b0, b1, b2] / 2 ^ 4)) (BitVec.ofNat 8 (valueOf [b0, b1, b2] / 2 ^ 12))
    rw [hencode, valueOf_hostBytes (BitVec.isLt _), BitVec.toNat_ofNat]
    omega

/-- Settles O3: each word selects its branch, and the code alone selects the host port's row. -/
theorem knownWordsDecode : Obligations.KnownWordsDecode := by
  refine ⟨rfl, rfl, rfl, rfl, rfl, rfl, fun a b => ?_⟩
  exact ⟨rfl, rfl, rfl, rfl, rfl, rfl, rfl, rfl, rfl, rfl, rfl, rfl, rfl, rfl, rfl, rfl⟩

end Sys2Proof

namespace Sys2Proof.Machine

/-! ### The device commands (R274 to R276, R281, R243) -/

/-- The slot bound of the speed in force (R16). -/
theorem bounds_slotMax (s : State) :
    (bounds s).slotMax = if s.od then s.cfg.profile.overdrive.slotMax else s.cfg.profile.normal.slotMax :=
  apply_ite SpeedBounds.slotMax _ _ _

/-- A zero high address byte starts the answer (R276). -/
theorem exec_readMemory_zero (ta1 : Byte) (s : State) : exec (.readMemory ta1 0x00) s =
    .next (startByte .dTxCrc1 (crc8Upd s.crc8 0x00) (latchCommand 0xF0 ta1 0x00 s)) := rfl

/-- Settles O10: the command byte selects its branch, and the answer's first byte phase is entered at the speed in force. -/
theorem readMemoryAnswersWithCommandCrc : Obligations.ReadMemoryAnswersWithCommandCrc := by
  refine ⟨fun ta1 ta2 => rfl, fun ta1 s => ?_⟩
  rw [exec_readMemory_zero, ← bounds_slotMax]
  rfl

/-- Settles O12: another command byte takes the other branch, whose meaning is the normal end of the cycle. -/
theorem otherDeviceCommandIsSilent : Obligations.OtherDeviceCommandIsSilent :=
  fun _ ta1 ta2 _ => ⟨fun h => decodeDev_of_ne h ta1 ta2, rfl⟩

/-! ### The record of a read transaction (R122, R272 to R279) -/

@[simp] theorem crc8Buf_nil (seed : Byte) : crc8Buf [] seed = seed := rfl

@[simp] theorem crc8Buf_cons (v : Byte) (buf : List Byte) (seed : Byte) :
    crc8Buf (v :: buf) seed = crc8Buf buf (crc8Upd seed v) := rfl

/-- The CRC of a stream that is one byte longer (R199). -/
theorem crc8Buf_concat (buf : List Byte) (v seed : Byte) : crc8Buf (buf ++ [v]) seed = crc8Upd (crc8Buf buf seed) v :=
  List.foldl_concat crc8Upd seed v buf

theorem dataBytes_zero (s : State) : dataBytes s 0 = [] := rfl

/-- One more data byte of a read (R278). -/
theorem dataBytes_succ (s : State) (n : Nat) :
    dataBytes s (n + 1) = dataBytes s n ++ [memRead s (translateAddr s (s.ta1.toNat + n))] := by
  simp [dataBytes, List.range_succ]

/-- What `TransactionInv` says in the phase that the state is in. -/
def transactionRecord (s : State) : Prop :=
  match s.phase with
  | .dRxCmd => s.crc8 = 0x00
  | .dRxTa1 => s.crc8 = crc8Buf [s.dcmd] 0x00
  | .dRxTa2 => s.crc8 = crc8Buf [s.dcmd, s.ta1] 0x00
  | .dTxCrc1 => s.dcmd = 0xF0 ∧ s.ta2 = 0x00 ∧ s.byte = crc8Buf [0xF0, s.ta1, 0x00] 0x00
  | .dTxData =>
    s.ta1.toNat ≤ s.addr.toNat ∧ s.addr.toNat < s.cfg.geometry.memSize ∧
    s.byte = memRead s (translateAddr s s.addr.toNat) ∧
    s.crc8 = crc8Buf (dataBytes s (s.addr.toNat - s.ta1.toNat)) 0x00
  | .dTxCrc2 => s.byte = crc8Buf (dataBytes s (s.cfg.geometry.memSize - s.ta1.toNat)) 0x00
  | .idle | .waitReset | .confirmReset | .presDelay | .presDrive | .presRelease | .rxCmd => True

/-- The phase's own clause is all there is to show. -/
theorem TransactionInv.of_record {s : State} (h : transactionRecord s) : TransactionInv s := by
  unfold transactionRecord at h
  constructor <;> intro hp <;> rw [hp] at h <;> exact h

/-- The byte in the making is no part of what has been received; only a byte being sent is fixed. -/
theorem TransactionInv.withByte {s : State} (h : TransactionInv s) {v : Byte} (hv : s.phase.isSend = true → v = s.byte) :
    TransactionInv { s with byte := v } :=
  { h with
    commandCrc := fun hp => hv (by rw [show s.phase = _ from hp]; rfl) ▸ h.commandCrc hp
    data := fun hp => hv (by rw [show s.phase = _ from hp]; rfl) ▸ h.data hp
    dataCrc := fun hp => hv (by rw [show s.phase = _ from hp]; rfl) ▸ h.dataCrc hp }

/-- A slot that ends leaves a byte being sent as it is (R172). -/
theorem SlotEnd.byte_eq_of_isSend {x : Bool} {s u : State} {v : Option Bool} (hu : SlotEnd x s v u)
    (hs : s.phase.isSend = true) : (storeBit v u).byte = s.byte := by
  have hrecv : s.phase.isReceive = false := by
    simpa [hs] using s.phase.not_send_and_receive
  cases hu with
  | driven | held => rfl
  | sampledOne => rw [storeBit_send _ _ hrecv]
  | sampledZero => rw [storeBit_send _ (countDown s) hrecv]; rfl

/-- A slot that ends keeps the record. -/
theorem TransactionInv.slotEnd {x : Bool} {s u : State} {v : Option Bool} (h : TransactionInv s) (hu : SlotEnd x s v u) :
    TransactionInv (storeBit v u) := by
  have hb := h.withByte hu.byte_eq_of_isSend
  rw [hu.storeBit_eq]
  exact { hb with }

/-- The CRC with the data byte that is being sent folded in (R278). -/
theorem TransactionInv.crc_of_data {s : State} (h : TransactionInv s) (hp : s.phase = .dTxData) :
    crc8Upd s.crc8 s.byte = crc8Buf (dataBytes s (s.addr.toNat + 1 - s.ta1.toNat)) 0x00 := by
  obtain ⟨hle, -, hbyte, hcrc⟩ := h.data hp
  rw [Nat.sub_add_comm hle, dataBytes_succ, crc8Buf_concat, ← hcrc, Nat.add_sub_cancel' hle, ← hbyte]

/-- However a byte ends, the next phase's record is the old one with the byte added (R237, R272 to R279). -/
theorem TransactionInv.byteEnd {u t : State} (h : TransactionInv u) (hc : cfgOk u.cfg = true) (ht : ByteEnd u t) :
    TransactionInv t := by
  have hta1 : (u.ta1.zeroExtend 9).toNat = u.ta1.toNat := BitVec.toNat_setWidth_of_le (by omega)
  have hsize := memSize_le_256 hc
  have hnext (hin : u.addr.toNat < u.cfg.geometry.memSize) : (u.addr + 1).toNat = u.addr.toNat + 1 := by bv_omega
  cases ht with
  | skipRom => exact .of_record rfl
  | busOther | silent | dataCrc => exact .of_idle rfl
  | command hp =>
    refine .of_record (show crc8Upd u.crc8 u.byte = crc8Buf [u.byte] 0x00 from ?_)
    rw [h.command hp, crc8Buf_cons, crc8Buf_nil]
  | firstAddress hp =>
    refine .of_record (show crc8Upd u.crc8 u.byte = crc8Buf [u.dcmd, u.byte] 0x00 from ?_)
    rw [h.firstAddress hp, ← crc8Buf_concat, List.singleton_append]
  | readMemory hp hcmd ha =>
    have hcrc : crc8Upd u.crc8 u.byte = crc8Buf [0xF0, u.ta1, 0x00] 0x00 := by
      rw [h.secondAddress hp, hcmd, ha, ← crc8Buf_concat, List.cons_append, List.singleton_append]
    exact .of_record ⟨hcmd, ha, hcrc⟩
  | commandCrc _ hlt =>
    have hbyte : memRead u (translateAddr u u.ta1.toNat) = memRead u (translateAddr u (u.ta1.zeroExtend 9).toNat) := by
      rw [hta1]
    have hcrc : 0x00 = crc8Buf (dataBytes u ((u.ta1.zeroExtend 9).toNat - u.ta1.toNat)) 0x00 := by
      rw [hta1, Nat.sub_self, dataBytes_zero, crc8Buf_nil]
    exact .of_record ⟨hta1.ge, hta1.symm ▸ hlt, hbyte, hcrc⟩
  | commandCrcPastEnd _ hge =>
    refine .of_record (show 0x00 = crc8Buf (dataBytes u (u.cfg.geometry.memSize - u.ta1.toNat)) 0x00 from ?_)
    rw [Nat.sub_eq_zero_of_le hge, dataBytes_zero, crc8Buf_nil]
  | data hp hlt =>
    obtain ⟨hle, hin, -, -⟩ := h.data hp
    have haddr := hnext hin
    have hcrc : crc8Upd u.crc8 u.byte = crc8Buf (dataBytes u ((u.addr + 1).toNat - u.ta1.toNat)) 0x00 := by
      rw [h.crc_of_data hp, haddr]
    exact .of_record ⟨haddr ▸ Nat.le_succ_of_le hle, hlt, rfl, hcrc⟩
  | lastData hp hge =>
    obtain ⟨-, hin, -, -⟩ := h.data hp
    have hend : u.addr.toNat + 1 = u.cfg.geometry.memSize := by
      have haddr := hnext hin
      omega
    have hcrc : crc8Upd u.crc8 u.byte = crc8Buf (dataBytes u (u.cfg.geometry.memSize - u.ta1.toNat)) 0x00 := by
      rw [h.crc_of_data hp, hend]
    exact .of_record hcrc

/-- Every tick of a running cycle keeps the record: reset detection and presence have none, and within a byte only its
receiving or sending goes on. -/
theorem TransactionInv.sequencerMove {x : Bool} {s t : State} (h : TransactionInv s) (hc : cfgOk s.cfg = true)
    (hm : SequencerMove x s t) : TransactionInv t := by
  cases hm with
  | idleTimesOut | pulseTooLong | presenceHeldLow | slotNeverStarts => exact .of_idle rfl
  | pulseStarts | pulseTooShort | pulseValid | presenceStarts | presenceEnds | presenceReleased | becomesReset =>
    exact .of_record trivial
  | settles | pulseGoesOn | waits | lineHigh => exact { h with }
  | slotStarts =>
    rw [slotStart_eq]
    exact { h with }
  | nextSlot _ hu =>
    have hkept := h.slotEnd hu
    exact { hkept with }
  | @byteEnds v u _ _ hu _ ht =>
    have hcu : cfgOk (storeBit v u).cfg = true := by rw [hu.storeBit_eq]; exact hc
    exact (h.slotEnd hu).byteEnd hcu ht

/-- Settles O50: after a reset and out of `IDLE` there is no transaction, and each tick of a running cycle keeps its record. -/
theorem transactionInvariantKept : Obligations.TransactionInvariantKept := by
  intro s t hinv h
  have hc := cfgOk_of_step h
  have hs : TransactionInv (afterInput s) := { hinv with }
  obtain ⟨-, rfl⟩ | ⟨-, hp, hm⟩ | ⟨-, -, hm⟩ := step_moves h
  · exact .of_idle rfl
  · obtain he | he := hm.phase_eq
    · exact .of_idle (he.trans hp)
    · exact .of_record (by simp [transactionRecord, he])
  · exact hs.sequencerMove hc hm

end Sys2Proof.Machine
end

section
/-! SUPPORT. Proofs of the statements of spec/40_bit_transport.md: one tick of a slot (O42 to O46) and the operations that run in
the tick that decides a byte's last bit (O6, O7). A tick of a slot counts, or it ends the wait by the sample or by the budget;
each has one rule of the bit engine, and `step_byte` carries it to the step. -/

namespace Sys2Proof.Machine

/-! ### The bit engine's waits (R161 to R163) -/

/-- With the sample `x` the wait of an engine state ends by its budget alone: the awaited level is not seen, or none is awaited. -/
def BitState.budgeted (x : Bool) : BitState → Bool
  | .waitHigh | .sample => !x
  | .waitFall => x
  | .drive | .hold => true

/-- An early tick counts (R161, R162). -/
theorem bitEngine_more {s : State} {x : Bool} (hb : s.bt.budgeted x = true) (hl : counterLive s) (h1 : s.cnt ≠ 1) :
    bitEngine x s = .move { s with cnt := s.cnt - 1 } := by
  have hd := delayTick_more hl h1
  cases hbt : s.bt with
  | waitHigh | waitFall | sample =>
    obtain rfl : x = _ := by simpa [hbt, BitState.budgeted] using hb
    simp only [bitEngine, hbt, waitWhile_level, hd]
  | drive | hold => simp only [bitEngine, hbt, hd]

/-- The line is high again: the slot's fall is awaited (R166). -/
theorem bitEngine_waitHigh_seen {s : State} (hb : s.bt = .waitHigh) :
    bitEngine true s = .move { s with bt := .waitFall, cnt := s.cfg.profile.highTimeout } := by
  simp [bitEngine, hb, waitWhile_seen]

/-- The line stays low for the whole budget: a reset is in progress (R166, R240). -/
theorem bitEngine_waitHigh_last {s : State} (hb : s.bt = .waitHigh) (hl : counterLive s) (h1 : s.cnt = 1) :
    bitEngine false s = .move (resetInProgress { s with cnt := 0 }) := by
  simp only [bitEngine, hb, waitWhile_level, delayTick_last hl h1]

/-- The fall starts the slot (R167, R168). -/
theorem bitEngine_waitFall_seen {s : State} (hb : s.bt = .waitFall) : bitEngine false s = .move (slotStart s) := by
  simp [bitEngine, hb, waitWhile_seen]

/-- The slot never starts (R167). -/
theorem bitEngine_waitFall_last {s : State} (hb : s.bt = .waitFall) (hl : counterLive s) (h1 : s.cnt = 1) :
    bitEngine true s = .move (raise (slotTimeoutError s) { s with cnt := 0 }) := by
  simp only [bitEngine, hb, waitWhile_level, delayTick_last hl h1, slotTimeoutError]

/-- A high sample, or the last one of the budget, decides the slot; only the latter uses the counter up (R161, R171). The
counter is said here, where `bitEngine_sample_decided` leaves it open, because an operation that runs in this tick keeps it. -/
theorem bitEngine_sample_ends {s : State} {x : Bool} (hb : s.bt = .sample) (hl : counterLive s)
    (hx : x = true ∨ s.cnt = 1) :
    bitEngine x s = bitDone (some x) { s with cnt := if x then s.cnt else 0 } := by
  cases x with
  | true =>
    change bitEngine true s = bitDone (some true) s
    simp [bitEngine, hb, waitWhile_seen]
  | false =>
    have h1 : s.cnt = 1 := by simpa using hx
    simp only [bitEngine, hb, waitWhile_level, delayTick_last hl h1, Bool.false_eq_true, if_false]

/-- The zero has been sent: the line is released (R169). -/
theorem bitEngine_drive_last (x : Bool) {s : State} (hb : s.bt = .drive) (hl : counterLive s) (h1 : s.cnt = 1) :
    bitEngine x s = bitDone none { s with cnt := 0, oe := false } := by
  simp only [bitEngine, hb, delayTick_last hl h1]

/-- The one has been sent (R170). -/
theorem bitEngine_hold_last (x : Bool) {s : State} (hb : s.bt = .hold) (hl : counterLive s) (h1 : s.cnt = 1) :
    bitEngine x s = bitDone none { s with cnt := 0 } := by
  simp only [bitEngine, hb, delayTick_last hl h1]

/-- An early tick of a slot takes the tick's inputs and counts, in every engine state and at every bit. -/
theorem step_byte_more {s : State} {x : Bool} (ht : Ticking s x) (hp : s.phase.isByte = true)
    (hb : s.bt.budgeted x = true) (hl : counterLive s) (h1 : s.cnt ≠ 1) :
    step s = .next { afterInput s with cnt := s.cnt - 1 } := by
  rw [step_byte ht hp, bitEngine_more (s := afterInput s) hb hl h1]
  rfl

/-! ### The start of a slot (R168) -/

theorem Phase.isByte_of_isSend {p : Phase} (h : p.isSend = true) : p.isByte = true := by
  simp [Phase.isByte, h]

theorem Phase.isSend_of_isReceive {p : Phase} (h : p.isReceive = true) : p.isSend = false := by
  simpa [h] using p.not_send_and_receive

theorem slotStart_receive {s : State} (h : s.phase.isReceive = true) :
    slotStart s = { s with bt := .sample, cnt := (bounds s).readMin } := by
  simp [slotStart, Phase.isSend_of_isReceive h]

theorem slotStart_send_zero {s : State} (h : s.phase.isSend = true) (hbit : s.byte.getLsbD s.bit.toNat = false) :
    slotStart s = { s with bt := .drive, oe := true, cnt := (bounds s).writeZero } := by
  simp only [slotStart, h, hbit, if_true, Bool.false_eq_true, if_false]

theorem slotStart_send_one {s : State} (h : s.phase.isSend = true) (hbit : s.byte.getLsbD s.bit.toNat = true) :
    slotStart s = { s with bt := .hold, cnt := (bounds s).readMax } := by
  simp only [slotStart, h, hbit, if_true]

/-! ### The end of a slot (R172) -/

/-- The last bit of a received byte is stored, and the byte is done. -/
theorem bitDone_received_last {s : State} (x : Bool) (hp : s.phase.isReceive = true) (hbit : s.bit = 7) :
    bitDone (some x) s = byteDone { s with byte := setBit s.byte 7 x } := by
  simp [bitDone_last _ hbit, storeBit, hp, hbit]

/-- The received byte: seven bits from before, the last one the sample's. -/
theorem getLsbD_setBit_seven (v : Byte) (x : Bool) :
    (∀ j, j < 7 → (setBit v 7 x).getLsbD j = v.getLsbD j) ∧ (setBit v 7 x).getLsbD 7 = x := by
  constructor
  · intro j hj
    rw [getLsbD_setBit v x 7 (by omega), if_neg (by omega)]
  · rw [getLsbD_setBit v x 7 (by omega), if_pos rfl]

/-- The state at the end of a received byte: the tick's inputs are taken, the last bit stands in the byte, and the counter has
run out if the sample was low. `step_sample_byteDone` ties it to the step. -/
def lastBitTaken (x : Bool) (s : State) : State :=
  { afterInput s with byte := setBit s.byte 7 x, cnt := if x then s.cnt else 0 }

/-- The tick that decides the last bit of a received byte is the byte's `byte_done` (R171, R172). -/
theorem step_sample_byteDone {s : State} {x : Bool} (ht : Ticking s x) (hp : s.phase.isReceive = true)
    (hb : s.bt = .sample) (hl : counterLive s) (hbit : s.bit = 7) (hx : x = true ∨ s.cnt = 1) :
    step s = (byteDone (lastBitTaken x s)).outcome := by
  have hends := bitEngine_sample_ends (s := afterInput s) hb hl hx
  have hdone := bitDone_received_last (s := { afterInput s with cnt := if x then s.cnt else 0 }) x hp hbit
  rw [step_byte ht (Phase.isByte_of_isReceive hp), hends]
  exact congrArg Action.outcome hdone

/-! ### What a finished byte does (R236, R272 to R274) -/

theorem byteDone_rxCmd {u : State} (h : u.phase = .rxCmd) : byteDone u = .run (decodeBus u.byte) u := by
  simp only [byteDone, h]

theorem byteDone_dRxCmd {u : State} (h : u.phase = .dRxCmd) : byteDone u = .move (receivedCommand u) := by
  simp only [byteDone, h]

theorem byteDone_dRxTa1 {u : State} (h : u.phase = .dRxTa1) : byteDone u = .move (receivedTa1 u) := by
  simp only [byteDone, h]

theorem byteDone_dRxTa2 {u : State} (h : u.phase = .dRxTa2) :
    byteDone u = .run (decodeDev u.dcmd u.ta1 u.byte) u := by
  simp only [byteDone, h]

/-! ### The statements -/

/-- Settles O44: the deciding sample writes the bit that `bit` names, and an early low sample counts. -/
theorem slotSampled : Obligations.SlotSampled := by
  intro s x ht hl hp hb
  refine ⟨fun hbit hx => ?_, fun hlow h1 => ?_⟩
  · exact ⟨_, fun j hj => getLsbD_setBit s.byte x s.bit.toNat hj, step_sample_decided ht hp hb hl hbit hx⟩
  · exact step_sample_more (hlow ▸ ht) hp hb hl h1

/-- Settles O46: the byte with its last bit is what `byte_done` of the two phases stores and folds in. -/
theorem receivedBytesStored : Obligations.ReceivedBytesStored := by
  intro s x ht hl hb hbit hx
  obtain ⟨hkept, hlast⟩ := getLsbD_setBit_seven s.byte x
  refine ⟨setBit s.byte 7 x, hkept, hlast, fun hp => ?_, fun hp => ?_⟩
  · rw [step_sample_byteDone ht (by rw [hp]; rfl) hb hl hbit hx, byteDone_dRxCmd (u := lastBitTaken x s) hp]
    rfl
  · rw [step_sample_byteDone ht (by rw [hp]; rfl) hb hl hbit hx, byteDone_dRxTa1 (u := lastBitTaken x s) hp]
    rfl

/-- Settles O6: `byte_done` of `RX_CMD` runs what the byte with its last bit decodes to. -/
theorem stepRunsBusCommand : Obligations.StepRunsBusCommand := by
  intro s x ht hl hp hb hbit hx
  obtain ⟨hkept, hlast⟩ := getLsbD_setBit_seven s.byte x
  refine ⟨setBit s.byte 7 x, hkept, hlast, ?_⟩
  rw [step_sample_byteDone ht (by rw [hp]; rfl) hb hl hbit hx, byteDone_rxCmd (u := lastBitTaken x s) hp]
  rfl

/-- Settles O7: `byte_done` of `D_RX_TA2` runs what the stored bytes and the one with its last bit decode to. -/
theorem stepRunsDeviceCommand : Obligations.StepRunsDeviceCommand := by
  intro s x ht hl hp hb hbit hx
  obtain ⟨hkept, hlast⟩ := getLsbD_setBit_seven s.byte x
  refine ⟨setBit s.byte 7 x, hkept, hlast, ?_⟩
  rw [step_sample_byteDone ht (by rw [hp]; rfl) hb hl hbit hx, byteDone_dRxTa2 (u := lastBitTaken x s) hp]
  rfl

/-- Settles O42: the high sample is seen before the budget is looked at, and the used-up budget is a reset in progress. -/
theorem slotEndAwaited : Obligations.SlotEndAwaited := by
  intro s x ht hl hp hb
  refine ⟨fun hx => ?_, fun hx h1 => ?_, fun hx h1 => ?_⟩
  · rw [step_byte ht hp, hx, bitEngine_waitHigh_seen (s := afterInput s) hb]
    rfl
  · exact step_byte_more ht hp (by simp [hb, hx, BitState.budgeted]) hl h1
  · rw [step_byte ht hp, hx, bitEngine_waitHigh_last (s := afterInput s) hb hl h1]
    rfl

/-- Settles O43: the fall starts the slot that phase and bit ask for; a budget used up without it aborts. -/
theorem slotStartAwaited : Obligations.SlotStartAwaited := by
  intro s x ht hl hp hb
  have hfall (hx : x = false) : step s = .next (slotStart (afterInput s)) := by
    rw [step_byte ht hp, hx, bitEngine_waitFall_seen (s := afterInput s) hb, Action.outcome_move]
  refine ⟨fun hx hr => ?_, fun hx hs hbit => ?_, fun hx hs hbit => ?_, fun hx h1 => ?_, fun hx h1 => ?_⟩
  · rw [hfall hx, slotStart_receive (s := afterInput s) hr, afterInput_bounds]
  · rw [hfall hx, slotStart_send_zero (s := afterInput s) hs hbit, afterInput_bounds]
  · rw [hfall hx, slotStart_send_one (s := afterInput s) hs hbit, afterInput_bounds]
  · exact step_byte_more ht hp (by simp [hb, hx, BitState.budgeted]) hl h1
  · rw [step_byte ht hp, hx, bitEngine_waitFall_last (s := afterInput s) hb hl h1]
    rfl

/-- Settles O45: driving and holding wait on the counter alone, and the end of the slot stores no bit. -/
theorem slotSent : Obligations.SlotSent := by
  intro s x ht hl hs
  have hp := Phase.isByte_of_isSend hs
  refine ⟨fun hb h1 => ?_, fun hbit hb h1 => ?_, fun hbit hb h1 => ?_⟩
  · have hbudget : s.bt.budgeted x = true := by
      obtain hb | hb := hb <;> rw [hb] <;> rfl
    exact step_byte_more ht hp hbudget hl h1
  · have hmore := bitDone_more none (s := { afterInput s with cnt := 0, oe := false }) hbit
    rw [step_byte ht hp, bitEngine_drive_last x (s := afterInput s) hb hl h1]
    exact congrArg Action.outcome hmore
  · have hmore := bitDone_more none (s := { afterInput s with cnt := 0 }) hbit
    rw [step_byte ht hp, bitEngine_hold_last x (s := afterInput s) hb hl h1]
    exact congrArg Action.outcome hmore

end Sys2Proof.Machine
end

section
/-! SUPPORT. Proofs of the statements of spec/41_frame_codec_crc.md: the stream with its own CRC-8 (O56), the CRC-8's bit rule
and linearity (O57), the CRC-16's bit rule and round trip (O58). The shared idea is to follow a byte bit by bit: what the
accumulator is after bits `0` to `n - 1`, by induction on `n`. -/

namespace Sys2Proof.Machine

/-! ### The bit rules in arithmetic (R197, R199) -/

/-- The rules' `mix` is 1 exactly when bit 0 of the accumulator differs from the incoming bit. -/
theorem mix_iff {w : Nat} (c : BitVec w) (b : Bool) :
    (c.getLsbD 0 ^^ b) = true ↔ (c.toNat % 2 = 1 ↔ b = false) := by
  have hbit : c.getLsbD 0 = decide (c.toNat % 2 = 1) := by rw [BitVec.getLsbD, Nat.testBit_zero]
  cases b <;> simp [hbit]

/-- The shape of both bit rules, with the constant `p`: halve, and mix `p` in. -/
theorem toNat_shift_mix {w : Nat} (c p : BitVec w) (b : Bool) :
    (if c.getLsbD 0 ^^ b then (c >>> 1) ^^^ p else c >>> 1).toNat =
      if (c.toNat % 2 = 1) ↔ b = false then c.toNat / 2 ^^^ p.toNat else c.toNat / 2 := by
  simp only [mix_iff, apply_ite BitVec.toNat, BitVec.toNat_xor, BitVec.toNat_ushiftRight, Nat.shiftRight_one]

theorem crc8Bit_toNat (c : Byte) (b : Bool) : (crc8Bit c b).toNat =
    if (c.toNat % 2 = 1) ↔ b = false then c.toNat / 2 ^^^ 0x8C else c.toNat / 2 :=
  toNat_shift_mix c 0x8C b

theorem crc16Bit_toNat (acc : BitVec 16) (b : Bool) : (crc16Bit acc b).toNat =
    if (acc.toNat % 2 = 1) ↔ b = false then acc.toNat / 2 ^^^ 0xA001 else acc.toNat / 2 :=
  toNat_shift_mix acc 0xA001 b

/-! ### The CRC-8 of a byte, bit by bit (R199, R201) -/

/-- The CRC-8 accumulator when bits `0` to `n - 1` of `v` are in. -/
def crc8Bits (c v : Byte) (n : Nat) : Byte :=
  (List.range n).foldl (fun acc i => crc8Bit acc (v.getLsbD i)) c

theorem crc8Upd_eq_crc8Bits (c v : Byte) : crc8Upd c v = crc8Bits c v 8 := rfl

theorem crc8Bits_zero (c v : Byte) : crc8Bits c v 0 = c := rfl

theorem crc8Bits_succ (c v : Byte) (n : Nat) :
    crc8Bits c v (n + 1) = crc8Bit (crc8Bits c v n) (v.getLsbD n) := by
  rw [crc8Bits, List.range_succ, List.foldl_concat, crc8Bits]

/-- An incoming bit equal to bit 0 of the accumulator is shifted out and leaves no trace. -/
theorem crc8Bit_own_bit (c : Byte) : crc8Bit c (c.getLsbD 0) = c >>> 1 := by
  simp [crc8Bit]

/-- Fed with its own bits the accumulator is only shifted: bit `n` of `c` is bit 0 of `c >>> n`. -/
theorem crc8Bits_self (c : Byte) (n : Nat) : crc8Bits c c n = c >>> n := by
  induction n with
  | zero => rw [crc8Bits_zero, BitVec.ushiftRight_zero]
  | succ n ih =>
    have hbit : c.getLsbD n = (c >>> n).getLsbD 0 := by rw [BitVec.getLsbD_ushiftRight, Nat.add_zero]
    rw [crc8Bits_succ, ih, hbit, crc8Bit_own_bit, BitVec.shiftRight_add]

/-- A byte folded into an equal accumulator clears it. -/
theorem crc8Upd_self (c : Byte) : crc8Upd c c = 0x00 := by
  rw [crc8Upd_eq_crc8Bits, crc8Bits_self]
  exact BitVec.ushiftRight_eq_zero (Nat.le_refl 8)

/-- Settles O56: the last byte meets an accumulator equal to it. -/
theorem crcOfStreamWithItsCrcIsZero : Obligations.CrcOfStreamWithItsCrcIsZero := by
  intro buf
  rw [crc8Buf_concat, crc8Upd_self]

/-- The bit rule as one exclusive or, whose second operand is 0 when nothing is mixed in. -/
theorem crc8Bit_eq_xor (c : Byte) (b : Bool) :
    crc8Bit c b = (c >>> 1) ^^^ (if c.getLsbD 0 ^^ b then 0x8C else 0x00) := by
  rw [crc8Bit]
  split
  · rfl
  · exact BitVec.xor_zero.symm

/-- The shift and the mix are linear: the mixes of the operands add up to the mix of the sum. -/
theorem crc8Bit_xor (c d : Byte) (x y : Bool) :
    crc8Bit (c ^^^ d) (x ^^ y) = crc8Bit c x ^^^ crc8Bit d y := by
  have hmix : ((c ^^^ d).getLsbD 0 ^^ (x ^^ y)) = ((c.getLsbD 0 ^^ x) ^^ (d.getLsbD 0 ^^ y)) := by
    rw [BitVec.getLsbD_xor, Bool.xor_assoc, Bool.xor_assoc, Bool.xor_left_comm x]
  have hconst (p q : Bool) : (if p ^^ q then 0x8C else 0x00 : Byte) =
      (if p then 0x8C else 0x00) ^^^ (if q then 0x8C else 0x00) := by
    cases p <;> cases q <;> rfl
  rw [crc8Bit_eq_xor, crc8Bit_eq_xor, crc8Bit_eq_xor, hmix, hconst, BitVec.ushiftRight_xor_distrib]
  ac_rfl

theorem crc8Bits_xor (a b v w : Byte) (n : Nat) :
    crc8Bits (a ^^^ b) (v ^^^ w) n = crc8Bits a v n ^^^ crc8Bits b w n := by
  induction n with
  | zero => rfl
  | succ n ih => rw [crc8Bits_succ, crc8Bits_succ, crc8Bits_succ, ih, BitVec.getLsbD_xor, crc8Bit_xor]

/-- The update is linear over GF(2) (R201 (c)). -/
theorem crc8Upd_xor (a b v w : Byte) : crc8Upd (a ^^^ b) (v ^^^ w) = crc8Upd a v ^^^ crc8Upd b w :=
  crc8Bits_xor a b v w 8

/-- Settles O57: the rule in arithmetic, the order by evaluation of the folds, and linearity from that of one bit. -/
theorem crcUpdateIsLinear : Obligations.CrcUpdateIsLinear :=
  ⟨crc8Bit_toNat, fun _ _ => rfl, fun v seed buf => ⟨crc8Buf_nil seed, crc8Buf_cons v buf seed⟩,
    by decide +kernel, by decide +kernel, crc8Upd_xor⟩

/-! ### Slots against bytes (R121, R192 to R195, R198) -/

/-- Folding the slots of a byte is folding the byte. -/
theorem crc16Slots_slotsOf (v : Byte) (acc : BitVec 16) : crc16Slots (slotsOf v) acc = crc16Byte acc v :=
  List.foldl_map

theorem crc16Slots_append (l m : List Bool) (acc : BitVec 16) :
    crc16Slots (l ++ m) acc = crc16Slots m (crc16Slots l acc) :=
  List.foldl_append

theorem slotsOfBuf_cons (v : Byte) (buf : List Byte) : slotsOfBuf (v :: buf) = slotsOf v ++ slotsOfBuf buf :=
  List.flatMap_cons

theorem crc16Buf_cons (v : Byte) (buf : List Byte) (acc : BitVec 16) :
    crc16Buf (v :: buf) acc = crc16Buf buf (crc16Byte acc v) :=
  List.foldl_cons ..

/-- What a receiver folds slot by slot is what the sender folds byte by byte (R194, R195). -/
theorem crc16Slots_slotsOfBuf (buf : List Byte) (acc : BitVec 16) :
    crc16Slots (slotsOfBuf buf) acc = crc16Buf buf acc := by
  induction buf generalizing acc with
  | nil => rfl
  | cons v buf ih => rw [slotsOfBuf_cons, crc16Slots_append, crc16Slots_slotsOf, ih, crc16Buf_cons]

/-- The byte a receiver holds when slots `0` to `n - 1` of `v` are stored, each at its index. -/
def slotsStored (v : Byte) (n : Nat) : Byte :=
  (List.range n).foldl (fun c i => setBit c i (v.getLsbD i)) 0x00

theorem slotsStored_zero (v : Byte) : slotsStored v 0 = 0x00 := rfl

theorem slotsStored_succ (v : Byte) (n : Nat) :
    slotsStored v (n + 1) = setBit (slotsStored v n) n (v.getLsbD n) := by
  rw [slotsStored, List.range_succ, List.foldl_concat, slotsStored]

theorem foldl_setBit_slotsOf (v : Byte) :
    (slotsOf v).zipIdx.foldl (fun c p => setBit c p.2 p.1) 0x00 = slotsStored v 8 := rfl

/-- The bits stored so far are `v`'s, the others are still 0. -/
theorem getLsbD_slotsStored (v : Byte) (n : Nat) {j : Nat} (hj : j < 8) :
    (slotsStored v n).getLsbD j = (decide (j < n) && v.getLsbD j) := by
  induction n with
  | zero => simp [slotsStored_zero]
  | succ n ih =>
    rw [slotsStored_succ, getLsbD_setBit _ _ _ hj]
    obtain rfl | hne := eq_or_ne j n
    · simp
    · have hlt : j < n + 1 ↔ j < n := by omega
      rw [if_neg hne, ih, decide_eq_decide.mpr hlt]

/-- All eight slots stored give the byte back. -/
theorem slotsStored_eight (v : Byte) : slotsStored v 8 = v :=
  BitVec.eq_of_getLsbD_eq fun j hj => by rw [getLsbD_slotsStored v 8 hj, decide_eq_true hj, Bool.true_and]

/-- Settles O58: the rule in arithmetic, the order by evaluation of the folds, and the round trip slot by slot. -/
theorem crcSixteenRoundTrip : Obligations.CrcSixteenRoundTrip :=
  ⟨crc16Bit_toNat, fun _ _ => rfl, fun v buf acc => ⟨rfl, crc16Buf_cons v buf acc⟩,
    by decide +kernel, by decide +kernel, by decide +kernel, by decide +kernel, crc16Slots_slotsOfBuf,
    fun v => (foldl_setBit_slotsOf v).trans (slotsStored_eight v)⟩

end Sys2Proof.Machine
end

section
/-! SUPPORT. Proofs of the statements of spec/42_bus_state_machine.md: one tick of reset detection and presence (O38 to O41), the
bus-layer commands (O8, O9) and the end of a cycle (O55). Each phase has one equation per way its tick can go, and the step is
the phase's definition after the tick's inputs. -/

namespace Sys2Proof.Machine

/-! ### The step in each phase before the first byte (R37) -/

theorem step_of_move {s t : State} {x : Bool} (ht : Ticking s x) (hp : s.phase ≠ .idle)
    (hm : sequencer x (afterInput s) = .move t) : step s = .next t := by
  rw [step_busy ht hp, hm, Action.outcome_move]

theorem step_waitReset {s : State} {x : Bool} (ht : Ticking s x) (hp : s.phase = .waitReset) :
    step s = .next (waitReset x (afterInput s)) :=
  step_of_move ht (by simp [hp]) (by simp only [sequencer, afterInput_phase, hp])

theorem step_confirmReset {s : State} {x : Bool} (ht : Ticking s x) (hp : s.phase = .confirmReset) :
    step s = .next (confirmReset x (afterInput s)) :=
  step_of_move ht (by simp [hp]) (by simp only [sequencer, afterInput_phase, hp])

theorem step_presDelay {s : State} {x : Bool} (ht : Ticking s x) (hp : s.phase = .presDelay) :
    step s = .next (presDelay (afterInput s)) :=
  step_of_move ht (by simp [hp]) (by simp only [sequencer, afterInput_phase, hp])

theorem step_presRelease {s : State} {x : Bool} (ht : Ticking s x) (hp : s.phase = .presRelease) :
    step s = .next (presRelease x (afterInput s)) :=
  step_of_move ht (by simp [hp]) (by simp only [sequencer, afterInput_phase, hp])

/-! ### Waiting for a reset pulse (R225 to R227) -/

/-- A fall after a settled high starts the measurement (R225). -/
theorem waitReset_fall {s : State} {x : Bool} (h : x = false ∧ s.cfg.profile.settleMin ≤ s.hi) :
    waitReset x s = { s with phase := .confirmReset, low := 1 } := if_pos h

/-- Every other sample is counted and uses up a tick (R226, R227). -/
theorem waitReset_counts {s : State} {x : Bool} (h : ¬(x = false ∧ s.cfg.profile.settleMin ≤ s.hi)) :
    waitReset x s = if (countDown s).cnt = 0 then idleTimeout { countDown s with hi := highCount x s }
      else { countDown s with hi := highCount x s } := if_neg h

/-- An early tick of the budget (R226). -/
theorem waitReset_more {s : State} {x : Bool} (h : ¬(x = false ∧ s.cfg.profile.settleMin ≤ s.hi)) (hl : counterLive s)
    (h1 : s.cnt ≠ 1) : waitReset x s = { s with hi := highCount x s, cnt := s.cnt - 1 } := by
  rw [waitReset_counts h, if_neg (fun h0 => h1 (cnt_eq_one_of_countDown hl h0)), countDown_of_live hl]

/-- The last tick of the budget (R227). -/
theorem waitReset_last {s : State} {x : Bool} (h : ¬(x = false ∧ s.cfg.profile.settleMin ≤ s.hi)) (hl : counterLive s)
    (h1 : s.cnt = 1) : waitReset x s = idleTimeout { s with hi := highCount x s } := by
  have hzero : (countDown s).cnt = 0 := by simp [countDown_of_live hl, h1]
  rw [waitReset_counts h, if_pos hzero]
  rfl

/-- Settles O38: the qualified fall is looked at first; otherwise the sample is counted and the budget decides. -/
theorem waitResetTick : Obligations.WaitResetTick := by
  intro s x ht hp hl
  rw [step_waitReset ht hp]
  refine ⟨fun h => ?_, fun h h1 => ?_, fun h h1 => ?_⟩
  · rw [waitReset_fall (s := afterInput s) h]
  · rw [waitReset_more (s := afterInput s) h hl h1]
    rfl
  · rw [waitReset_last (s := afterInput s) h hl h1]
    rfl

/-! ### The measured pulse (R228 to R230) -/

/-- A value below a bound that the counter holds is kept as it is (R45). -/
theorem counterValue_of_lt {c : Cfg} {n : Nat} (h : n < 2 ^ c.cntW) : counterValue c n = n := Nat.mod_eq_of_lt h

/-- The limit of a measured pulse is a value of the counter (R7). -/
theorem resetTimeout_fits {s : State} (hc : cfgOk s.cfg = true) : s.cfg.profile.resetTimeout < 2 ^ s.cfg.cntW := by
  obtain ⟨_, _, _, _, _, _, _, _, _, _, _, _, hfits, _⟩ := profile_of_cfgOk hc
  exact hfits

/-- A low sample below the limit (R228). -/
theorem confirmReset_low_more {s : State} (hc : cfgOk s.cfg = true) (h : s.low + 1 < s.cfg.profile.resetTimeout) :
    confirmReset false s = { s with low := s.low + 1 } := by
  have hfits : counterValue s.cfg (s.low + 1) = s.low + 1 := counterValue_of_lt (h.trans (resetTimeout_fits hc))
  have hmore : ¬ s.cfg.profile.resetTimeout ≤ s.low + 1 := by omega
  simp only [confirmReset, Bool.false_eq_true, if_false, hfits, hmore]

/-- The low sample that reaches the limit (R228, R362). -/
theorem confirmReset_low_last {s : State} (hc : cfgOk s.cfg = true) (h : s.low + 1 = s.cfg.profile.resetTimeout) :
    confirmReset false s = raise .veryLongReset { s with low := s.cfg.profile.resetTimeout } := by
  have hfits : counterValue s.cfg s.cfg.profile.resetTimeout = s.cfg.profile.resetTimeout :=
    counterValue_of_lt (resetTimeout_fits hc)
  simp only [confirmReset, Bool.false_eq_true, if_false, h, hfits, Nat.le_refl, if_true]

/-- Settles O39: the limit fits the counter (R7), so the count does not wrap before it is reached. -/
theorem lowSampleCounted : Obligations.LowSampleCounted := by
  intro s ht hp _
  rw [step_confirmReset ht hp]
  refine ⟨fun h => ?_, fun h => ?_⟩
  · rw [confirmReset_low_more (s := afterInput s) ht.cfg h]
    rfl
  · rw [confirmReset_low_last (s := afterInput s) ht.cfg h]
    rfl

/-- A high sample ends the measurement (R229). -/
theorem confirmReset_released (s : State) : confirmReset true s = classifyPulse s := rfl

/-- A pulse below the least length is ignored (R229). -/
theorem classifyPulse_short {s : State} (h : s.low < (bounds s).resetMin) :
    classifyPulse s = { s with phase := .waitReset, hi := 1, cnt := s.cfg.profile.idleTimeout } := if_pos h

/-- A valid pulse is answered at the speed it selects (R229, R230). -/
theorem classifyPulse_valid {s : State} (h : (bounds s).resetMin ≤ s.low) :
    classifyPulse s = { s with
      od := speedAfterReset s s.low, phase := .presDelay,
      cnt := (bounds { s with od := speedAfterReset s s.low }).presenceDelay } := if_neg (Nat.not_lt.mpr h)

/-- Overdrive is left by a pulse that is one at normal speed, and entered by none (R230). -/
theorem speedAfterReset_eq (s : State) (d : Nat) :
    speedAfterReset s d = if s.od = true ∧ s.cfg.profile.normal.resetMin ≤ d then false else s.od := by
  by_cases hd : s.cfg.profile.normal.resetMin ≤ d <;> simp [speedAfterReset, hd]

/-- The presence delay of the speed in force (R16). -/
theorem bounds_presenceDelay (s : State) : (bounds s).presenceDelay =
    if s.od then s.cfg.profile.overdrive.presenceDelay else s.cfg.profile.normal.presenceDelay :=
  apply_ite SpeedBounds.presenceDelay _ _ _

/-- Settles O40: the least length at the speed in force decides, and the delay is the one of the speed after it. -/
theorem releasedPulseClassified : Obligations.ReleasedPulseClassified := by
  intro s ht hp
  rw [step_confirmReset ht hp, confirmReset_released]
  refine ⟨fun h => ?_, fun h od' hod => ?_⟩
  · rw [classifyPulse_short (s := afterInput s) h]
    rfl
  · have hspeed : speedAfterReset (afterInput s) (afterInput s).low = od' :=
      (speedAfterReset_eq (afterInput s) s.low).trans hod.symm
    rw [classifyPulse_valid (s := afterInput s) h, hspeed, bounds_presenceDelay]
    rfl

/-! ### The presence sequence (R232 to R234) -/

theorem presDelay_more {s : State} (hl : counterLive s) (h1 : s.cnt ≠ 1) : presDelay s = { s with cnt := s.cnt - 1 } := by
  simp only [presDelay, delayTick_more hl h1]

/-- The delay is over: the line is driven (R232). -/
theorem presDelay_last {s : State} (hl : counterLive s) (h1 : s.cnt = 1) :
    presDelay s = { s with phase := .presDrive, oe := true, cnt := (bounds s).presenceMin } := by
  simp only [presDelay, delayTick_last hl h1, bounds]

/-- A high sample ends the release window before its budget is looked at (R234, R161). -/
theorem presRelease_released (s : State) : presRelease true s = startByte .rxCmd 0x00 s := by
  simp only [presRelease, waitWhile_seen s (by decide : true ≠ false)]

theorem presRelease_low_more {s : State} (hl : counterLive s) (h1 : s.cnt ≠ 1) :
    presRelease false s = { s with cnt := s.cnt - 1 } := by
  simp only [presRelease, waitWhile_level, delayTick_more hl h1]

/-- The line is still low at the end of the window (R234, R362). -/
theorem presRelease_low_last {s : State} (hl : counterLive s) (h1 : s.cnt = 1) :
    presRelease false s = raise .presenceLowOnLine { s with cnt := 0 } := by
  simp only [presRelease, waitWhile_level, delayTick_last hl h1]

/-- Settles O41: delay and drive wait on the counter alone, the release window on the sample and then on the counter. -/
theorem presenceSequenced : Obligations.PresenceSequenced := by
  intro s x ht hl
  refine ⟨fun hp => ?_, fun hp => ?_, fun hp => ?_⟩
  · rw [step_presDelay ht hp]
    refine ⟨fun h1 => ?_, fun h1 => ?_⟩
    · rw [presDelay_more (s := afterInput s) hl h1]
      rfl
    · rw [presDelay_last (s := afterInput s) hl h1, afterInput_bounds]
  · refine ⟨step_presDrive_more ht hp hl, fun h1 => ?_⟩
    rw [step_presDrive_last ht hp hl h1]
  · rw [step_presRelease ht hp]
    refine ⟨fun hx => ?_, fun hx h1 => ?_, fun hx h1 => ?_⟩
    · rw [hx, presRelease_released]
      rfl
    · rw [hx, presRelease_low_more (s := afterInput s) hl h1]
      rfl
    · rw [hx, presRelease_low_last (s := afterInput s) hl h1]
      rfl

/-! ### The bus-layer commands (R236 to R238) -/

theorem exec_skipRom (s : State) : exec .skipRom s = .next (startByte .dRxCmd 0x00 { s with crc8 := 0x00 }) := rfl

/-- Settles O8: the device's command byte is entered at the speed in force. -/
theorem skipRomDispatches : Obligations.SkipRomDispatches := by
  refine ⟨rfl, fun s => ?_⟩
  rw [exec_skipRom, ← bounds_slotMax]
  rfl

/-- Settles O9: another byte takes the decoder's other branch, whose meaning is the abort sequence. -/
theorem otherBusCommandAborts : Obligations.OtherBusCommandAborts :=
  fun _ _ => ⟨decodeBus_of_ne, rfl⟩

/-! ### The end of a cycle (R227, R243, R244, R362) -/

/-- How a tick from `s` that ends the cycle leaves `t`: the line released and the engine at rest, and the result flag set only
by the normal end of the device's `duty`, which keeps the error as it was. -/
structure CycleEnd (s t : State) : Prop where
  line : t.oe = false
  counter : t.cnt = 0
  bit : t.bit = 0
  engine : t.bt = .waitHigh
  normal : t.dispatched = true → t.err = s.err ∧ (s.phase = .dRxTa2 ∨ s.phase = .dTxCrc2)

/-- An abort ends a cycle from anywhere (R362). -/
theorem CycleEnd.raise (e : ErrCode) (s u : State) : CycleEnd s (raise e u) := ⟨rfl, rfl, rfl, rfl, nofun⟩

theorem CycleEnd.idleTimeout (s u : State) : CycleEnd s (idleTimeout u) := ⟨rfl, rfl, rfl, rfl, nofun⟩

/-- The normal end belongs to the two phases in which the `duty` returns (R243). -/
theorem CycleEnd.finish {s u : State} (he : u.err = s.err) (hp : s.phase = .dRxTa2 ∨ s.phase = .dTxCrc2) :
    CycleEnd s (finish u) :=
  ⟨rfl, rfl, rfl, rfl, fun _ => ⟨he, hp⟩⟩

theorem ByteEnd.cycleEnd {u t : State} (h : ByteEnd u t) (ht : t.phase = .idle) : CycleEnd u t := by
  cases h with
  | busOther => exact .raise _ _ _
  | silent hp => exact .finish rfl (.inl hp)
  | dataCrc hp => exact .finish rfl (.inr hp)
  | skipRom | command | firstAddress | readMemory | commandCrc | commandCrcPastEnd | data | lastData => cases ht

/-- A running cycle ends by the idle timeout, by an abort, or by the end of a byte. -/
theorem SequencerMove.cycleEnd {x : Bool} {s t : State} (h : SequencerMove x s t) (hs : s.phase ≠ .idle)
    (ht : t.phase = .idle) : CycleEnd s t := by
  cases h with
  | idleTimesOut => exact .idleTimeout _ _
  | pulseTooLong | presenceHeldLow | slotNeverStarts => exact .raise _ _ _
  | @byteEnds v u _ _ hu _ hend =>
    have hc := hend.cycleEnd ht
    rw [hu.storeBit_eq] at hc
    exact ⟨hc.line, hc.counter, hc.bit, hc.engine, hc.normal⟩
  | pulseStarts | pulseTooShort | pulseValid | presenceStarts | presenceEnds | presenceReleased | becomesReset => cases ht
  | settles | pulseGoesOn | waits | lineHigh => exact absurd ht hs
  | slotStarts => exact absurd ((slotStart_phase s).symm.trans ht) hs
  | @nextSlot v u _ hu =>
    rw [hu.storeBit_eq] at ht
    exact absurd ht hs

/-- Settles O55: the ends of a cycle are listed; the speed is written only by a reset pulse, which goes on to presence, and no
tick of a cycle writes storage. -/
theorem cycleEndsQuiet : Obligations.CycleEndsQuiet := by
  intro s t h hr hs ht
  obtain ⟨hr', -⟩ | ⟨-, hp, -⟩ | ⟨-, -, hm⟩ := step_moves h
  · simp [hr] at hr'
  · exact absurd hp hs
  · have hk : storageKept s t := hm.storageKept
    obtain ⟨hline, hcounter, hbit, hengine, hnormal⟩ := hm.cycleEnd hs ht
    obtain hod | ⟨hdelay, -⟩ := hm.od_cases
    · exact ⟨hline, hcounter, hbit, hengine, hod, hk, hnormal⟩
    · rw [ht] at hdelay
      cases hdelay

end Sys2Proof.Machine
end

section
/-! SUPPORT. Proofs of the statements of spec/43_eeprom_device.md: the bytes of the answer (O47), the silent end for a high
address byte (O11), and the redirection table written and read back (O28). -/

namespace Sys2Proof.Machine

/-! ### The end of a sent byte (R169, R170, R172) -/

/-- The state at the end of a sent byte: the tick's inputs are taken, the line is released, and the counter has run out.
`step_sent_byteDone` ties it to the step. -/
def byteSent (s : State) : State :=
  { afterInput s with cnt := 0, oe := false }

/-- The tick that ends the last slot of a sent byte is the byte's `byte_done`, whether the bit was driven or held. -/
theorem step_sent_byteDone {s : State} {x : Bool} (ht : Ticking s x) (hp : s.phase.isSend = true) (hl : counterLive s)
    (h1 : s.cnt = 1) (hbit : s.bit = 7) (hb : s.bt = .drive ∨ (s.bt = .hold ∧ s.oe = false)) :
    step s = (byteDone (byteSent s)).outcome := by
  have hends : bitEngine x (afterInput s) = bitDone none (byteSent s) := by
    obtain hdrive | ⟨hhold, hreleased⟩ := hb
    · exact bitEngine_drive_last x (s := afterInput s) hdrive hl h1
    · rw [bitEngine_hold_last x (s := afterInput s) hhold hl h1, byteSent, ← hreleased]
      rfl
  have hdone : bitDone none (byteSent s) = byteDone (byteSent s) := bitDone_last none hbit
  rw [step_byte ht (Phase.isByte_of_isSend hp), hends, hdone]

theorem byteDone_dTxCrc1 {u : State} (h : u.phase = .dTxCrc1) : byteDone u = .move (sentCommandCrc u) := by
  simp only [byteDone, h]

theorem byteDone_dTxData {u : State} (h : u.phase = .dTxData) : byteDone u = .move (sentData u) := by
  simp only [byteDone, h]

theorem byteDone_dTxCrc2 {u : State} (h : u.phase = .dTxCrc2) : byteDone u = .move (finish u) := by
  simp only [byteDone, h, sentDataCrc]

/-! ### What follows each byte of the answer (R277, R278) -/

/-- The first data byte follows the command CRC (R277). -/
theorem sentCommandCrc_inside {u : State} (h : u.ta1.toNat < u.cfg.geometry.memSize) :
    sentCommandCrc u = startByte .dTxData (memRead u (translateAddr u u.ta1.toNat))
      { u with crc8 := 0x00, addr := BitVec.ofNat 9 u.ta1.toNat } := by
  rw [sentCommandCrc, if_pos h, BitVec.ofNat_toNat]

/-- Past the end of memory there is no data byte, and the CRC of none follows (R277). -/
theorem sentCommandCrc_pastEnd {u : State} (h : u.cfg.geometry.memSize ≤ u.ta1.toNat) :
    sentCommandCrc u = startByte .dTxCrc2 0x00 { u with crc8 := 0x00, addr := BitVec.ofNat 9 u.ta1.toNat } := by
  rw [sentCommandCrc, if_neg (Nat.not_lt.mpr h), BitVec.ofNat_toNat]

/-- The address of the next data byte does not wrap: memory ends at 256 or below (R10, R84). -/
theorem addr_succ_toNat {u : State} (hc : cfgOk u.cfg = true) (h : u.addr.toNat < u.cfg.geometry.memSize) :
    (u.addr + 1).toNat = u.addr.toNat + 1 := by
  have hsize := memSize_le_256 hc
  bv_omega

/-- The next address's byte follows a data byte (R278). -/
theorem sentData_next {u : State} (hc : cfgOk u.cfg = true) (h : u.addr.toNat + 1 < u.cfg.geometry.memSize) :
    sentData u = startByte .dTxData (memRead u (translateAddr u (u.addr.toNat + 1)))
      { u with crc8 := crc8Upd u.crc8 u.byte, addr := u.addr + 1 } := by
  have haddr := addr_succ_toNat hc (Nat.lt_of_succ_lt h)
  rw [sentData, haddr, if_pos h]

/-- The CRC of the data follows the last byte of memory (R278). -/
theorem sentData_last {u : State} (hc : cfgOk u.cfg = true) (h : u.addr.toNat + 1 = u.cfg.geometry.memSize) :
    sentData u = startByte .dTxCrc2 (crc8Upd u.crc8 u.byte)
      { u with crc8 := crc8Upd u.crc8 u.byte, addr := u.addr + 1 } := by
  have haddr := addr_succ_toNat hc (Nat.lt_of_succ_le h.le)
  rw [sentData, haddr, if_neg h.not_lt]

/-- Settles O47: the last tick of a sent byte runs the phase's `byte_done`, and the address decides what follows. -/
theorem answerBytesSent : Obligations.AnswerBytesSent := by
  intro s x ht h1 hl hbit hb
  have hdone (hs : s.phase.isSend = true) := step_sent_byteDone ht hs hl h1 hbit hb
  refine ⟨fun hp ha => ?_, fun hp ha => ?_, fun hp ha => ?_, fun hp ha => ?_, fun hp => ?_⟩
  · rw [hdone (by rw [hp]; rfl), byteDone_dTxCrc1 (u := byteSent s) hp, sentCommandCrc_inside (u := byteSent s) ha]
    rfl
  · rw [hdone (by rw [hp]; rfl), byteDone_dTxCrc1 (u := byteSent s) hp, sentCommandCrc_pastEnd (u := byteSent s) ha]
    rfl
  · rw [hdone (by rw [hp]; rfl), byteDone_dTxData (u := byteSent s) hp, sentData_next (u := byteSent s) ht.cfg ha]
    rfl
  · rw [hdone (by rw [hp]; rfl), byteDone_dTxData (u := byteSent s) hp, sentData_last (u := byteSent s) ht.cfg ha]
    rfl
  · rw [hdone (by rw [hp]; rfl), byteDone_dTxCrc2 (u := byteSent s) hp]
    rfl

/-! ### READ_MEMORY past the first 256 addresses (R275) -/

/-- A non-zero high address byte ends the cycle without an answer. -/
theorem exec_readMemory_of_ne {ta2 : Byte} (h : ta2 ≠ 0x00) (ta1 : Byte) (s : State) :
    exec (.readMemory ta1 ta2) s = .next (finish (latchCommand 0xF0 ta1 ta2 s)) :=
  congrArg Host.Outcome.next (if_neg h)

/-- Settles O11: the silent end is the normal end of the cycle after the command is stored. -/
theorem readMemoryRejectsHighAddress : Obligations.ReadMemoryRejectsHighAddress :=
  fun ta1 _ s h => exec_readMemory_of_ne h ta1 s

/-! ### The redirection table (R284, R285, R288) -/

/-- In `IDLE` an operation has its effect (R310). -/
theorem accepted_of_idle {s : State} (h : s.phase = .idle) (effect : State) : accepted s effect = effect := if_pos h

theorem statusGet_answer (ok : Bool) (rdata : Byte) (s : State) (i : Nat) :
    statusGet (answer ok rdata s) i = statusGet s i := rfl

theorem validPage_iff (s : State) (p : Byte) : validPage s p = true ↔ p.toNat < s.cfg.geometry.pageCount := decide_eq_true_iff

theorem redirectionOk_iff (p q : Byte) (s : State) : redirectionOk p q s = true ↔
    p.toNat < s.cfg.geometry.pageCount ∧ q.toNat < s.cfg.geometry.pageCount := by
  rw [redirectionOk, Bool.and_eq_true, validPage_iff, validPage_iff]

/-- SET_PAGE_REDIR of two valid pages writes the source page's byte (R284, R321). -/
theorem exec_setPageRedir_valid {p q : Byte} {s : State} (h : s.phase = .idle) (hp : p.toNat < s.cfg.geometry.pageCount)
    (hq : q.toNat < s.cfg.geometry.pageCount) : exec (.setPageRedir p q) s =
      .next (answer true 0x00 (statusSet s (1 + p.toNat) (if p = q then 0xFF else ~~~q))) := by
  have hok : redirectionOk p q s = true := (redirectionOk_iff p q s).mpr ⟨hp, hq⟩
  rw [exec, execSetPageRedir, accepted_of_idle h, setPageRedirectionOp, hok, if_pos rfl]

/-- GET_PAGE_REDIR of a valid page answers with the complement of its byte (R285, R322). -/
theorem exec_getPageRedir_valid {p : Byte} {s : State} (h : s.phase = .idle) (hp : p.toNat < s.cfg.geometry.pageCount) :
    exec (.getPageRedir p) s = .next (answer true (~~~(statusGet s (1 + p.toNat))) s) := by
  rw [exec, execGetPageRedir, accepted_of_idle h, getPageRedirectionOp, if_pos ((validPage_iff s p).mpr hp)]

/-- The complement of a redirection byte as it is written: the destination, or 0 for a page redirected to itself (R288). -/
theorem not_redirectionByte (p q : Byte) : ~~~(if p = q then 0xFF else ~~~q) = if p = q then 0x00 else q := by
  rw [apply_ite (~~~ ·), BitVec.not_not]
  rfl

/-- Settles O28: the source page has a byte of the status block (R10), so what is read is the complement of what was written. -/
theorem redirectionRoundTrip : Obligations.RedirectionRoundTrip := by
  intro p q s h hpages hp hq
  have hget := statusGet_statusSet s (1 + p.toNat) (if p = q then 0xFF else ~~~q) (1 + p.toNat) (by omega)
  rw [if_pos rfl] at hget
  refine ⟨_, _, exec_setPageRedir_valid h hp hq, exec_getPageRedir_valid (s := answer _ _ (statusSet s _ _)) h hp, ?_⟩
  rw [statusGet_answer, hget, not_redirectionByte]
  rfl

end Sys2Proof.Machine
end

section
/-! SUPPORT. Proofs of the statements of spec/44_host_operations.md: the host port at a tick (O5, O31, O32), each operation's
effect in `IDLE` (O13 to O26), and the fields each operation may write (O30). -/

namespace Sys2Proof.Machine

/-! ### The host port at a tick (R310, R311) -/

/-- Outside `IDLE` an operation is turned away (R310). -/
theorem accepted_of_busy {s : State} (h : s.phase ≠ .idle) (effect : State) :
    accepted s effect = { s with port := HostOut.none } := if_neg h

/-- In `IDLE` an operation's next state is its effect (R310). -/
theorem next_accepted {s e : State} (h : s.phase = .idle) :
    (.next (accepted s e) : Host.Outcome State Fault Refusal) = .next e := congrArg _ (accepted_of_idle h e)

/-- Settles O31: every host operation is its effect behind the same test of the phase. -/
theorem hostOperationsTurnedAwayWhileBusy : Obligations.HostOperationsTurnedAwayWhileBusy := by
  intro i s hf hp
  cases i with
  | skipRom | busOther | readMemory | devOther => cases hf
  | nop | poll | clearError | attach | detach | setOd | memWrite | memRead | setPageUsed | setPageRedir | getPageRedir
  | clearStatus | statusRead | translate | hostRsvd14 | hostRsvd15 =>
    exact congrArg Host.Outcome.next (accepted_of_busy hp _)

/-- A presented operation runs at the state whose tick inputs have been taken (R310). -/
theorem step_of_hostOp {s : State} (hc : cfgOk s.cfg = true) (hr : (nextInput s).rst = false) (hp : s.phase = .idle)
    (hv : (nextInput s).hValid = true) :
    step s = exec (decodeHost (nextInput s).hOp (nextInput s).hA (nextInput s).hB) (afterInput s) := by
  simp [step_of_cfgOk hc, tick, hr, hp, hv, Action.outcome]

/-- Settles O5: in `IDLE` the tick's one action is to run what the port presents. -/
theorem stepRunsHostOperation : Obligations.StepRunsHostOperation :=
  fun _ hc hr hp hv => step_of_hostOp hc hr hp hv

/-- A step depends on the configuration and on what the tick comes to. -/
theorem step_congr {s t : State} (hc : s.cfg = t.cfg)
    (h : tick (nextInput s) (lineLevel s) (afterInput s) = tick (nextInput t) (lineLevel t) (afterInput t)) :
    step s = step t := by
  rw [step, step, hc, h]

/-- Outside `IDLE` a tick looks at `rst` and the line sample alone (R311). -/
theorem tick_of_busy {s : State} {u v : TickIn} (x : Bool) (hp : s.phase ≠ .idle) (hr : u.rst = v.rst) :
    tick u x s = tick v x s := by
  rw [tick, tick, if_neg hp, if_neg hp, hr]

/-- Settles O32: the host port enters a tick by the operation that `IDLE` runs and by nothing else. -/
theorem hostPortHiddenWhileBusy : Obligations.HostPortHiddenWhileBusy := by
  intro s u v rest hp hr hpull
  have hline : lineLevel { s with inputs := u :: rest } = lineLevel { s with inputs := v :: rest } := by
    simp only [lineLevel, nextInput, hpull]
  refine step_congr rfl ?_
  rw [hline]
  exact tick_of_busy _ hp hr

/-! ### Operations that write a flag or nothing (R312 to R317) -/

/-- Settles O13: the reserved codes differ from NOP in the answer alone. -/
theorem nopAndReservedCodesChangeNothing : Obligations.NopAndReservedCodesChangeNothing :=
  ⟨fun _ _ => ⟨rfl, rfl, rfl⟩, fun _ h => ⟨next_accepted h, next_accepted h, next_accepted h⟩⟩

/-- Settles O14: the slot's flag decides between the two effects. -/
theorem pollStartsCycle : Obligations.PollStartsCycle := by
  refine fun s h => ⟨fun ha => ?_, fun ha => ?_⟩
  · rw [exec, execPoll, next_accepted h, if_pos ha]
    rfl
  · rw [exec, execPoll, next_accepted h, if_neg (Bool.eq_false_iff.mp ha)]
    rfl

/-- Settles O15: the effect names `err` alone, so `err_cmd` stands. -/
theorem clearErrorKeepsErrCmd : Obligations.ClearErrorKeepsErrCmd :=
  ⟨fun _ _ => rfl, fun _ h => next_accepted h⟩

/-- Settles O16: the slot's flag decides between the two effects. -/
theorem attachTakesTheSlot : Obligations.AttachTakesTheSlot := by
  refine fun s h => ⟨fun ha => ?_, fun ha => ?_⟩
  · rw [exec, execAttach, next_accepted h, if_neg (Bool.eq_false_iff.mp ha)]
    rfl
  · rw [exec, execAttach, next_accepted h, if_pos ha]
    rfl

/-- Settles O17: the slot's flag decides between the two effects. -/
theorem detachFreesTheSlot : Obligations.DetachFreesTheSlot := by
  refine fun s h => ⟨fun ha => ?_, fun ha => ?_⟩
  · rw [exec, execDetach, next_accepted h, if_pos ha]
    rfl
  · rw [exec, execDetach, next_accepted h, if_neg (Bool.eq_false_iff.mp ha)]
    rfl

/-- Settles O18: the effect looks at bit 0 of the operand alone. -/
theorem setOdWritesBitZero : Obligations.SetOdWritesBitZero :=
  ⟨fun _ _ => rfl, fun _ _ h => next_accepted h⟩

/-! ### Operations on the data memory (R318, R319) -/

/-- A write past the end changes nothing (R87). -/
theorem memWrite_past_end {s : State} {i : Nat} (h : s.cfg.geometry.memSize ≤ i) (v : Byte) : memWrite s i v = s :=
  if_neg (Nat.not_lt.mpr h)

/-- MEM_WRITE of an index inside the memory (R318). -/
theorem exec_memWrite_inside {a : Byte} {s : State} (h : s.phase = .idle) (ha : a.toNat < s.cfg.geometry.memSize)
    (b : Byte) : exec (.memWrite a b) s = .next (answer true 0x00 (memWrite s a.toNat b)) := by
  rw [exec, execMemWrite, next_accepted h, decide_eq_true ha]

/-- What the host port answers is no part of the memory. -/
theorem memRead_answer (ok : Bool) (rdata : Byte) (s : State) (k : Nat) : memRead (answer ok rdata s) k = memRead s k :=
  memRead_congr rfl rfl k

/-- Settles O19: `memWrite` writes `mem` alone, and what is read after it is the read-after-write law of canonical memories. -/
theorem memWriteStoresOneByte : Obligations.MemWriteStoresOneByte := by
  refine fun a b s h hwf => ⟨fun ha => ⟨_, exec_memWrite_inside h ha b, ?_, fun k => ?_⟩, fun ha => ?_⟩
  · rw [memWrite_eq]
    rfl
  · simp only [memRead_answer, memRead_memWrite hwf, ha, and_true]
  · rw [exec, execMemWrite, next_accepted h, memWrite_past_end ha, decide_eq_false (Nat.not_lt.mpr ha)]
    rfl

/-- Settles O20: the index is tested against the end of the memory, by the answer and by the read alike. -/
theorem memReadReturnsTheByte : Obligations.MemReadReturnsTheByte := by
  refine ⟨fun _ _ => rfl, fun a s h => ⟨fun ha => ?_, fun ha => ?_⟩⟩
  · rw [exec, execMemRead, next_accepted h, decide_eq_true ha, memRead, if_pos ha]
    rfl
  · rw [exec, execMemRead, next_accepted h, decide_eq_false (Nat.not_lt.mpr ha), memRead_past_end ha]
    rfl

/-! ### Operations on the status block (R320 to R325) -/

theorem not_validPage {s : State} {p : Byte} (h : s.cfg.geometry.pageCount ≤ p.toNat) : ¬ validPage s p = true :=
  mt (validPage_iff s p).mp (Nat.not_lt.mpr h)

/-- Marking a valid page clears its protection bit in byte 0 (R283). -/
theorem setPageUsedOp_valid {a : Byte} {s : State} (ha : a.toNat < s.cfg.geometry.pageCount) :
    setPageUsedOp a s = statusSet s 0 (setBit (statusGet s 0) (a.toNat + 4) false) :=
  if_pos ((validPage_iff s a).mpr ha)

/-- Marking an absent page changes nothing (R283). -/
theorem setPageUsedOp_absent {a : Byte} {s : State} (ha : s.cfg.geometry.pageCount ≤ a.toNat) : setPageUsedOp a s = s :=
  if_neg (not_validPage ha)

/-- SET_PAGE_USED answers ok for every page (R320). -/
theorem exec_setPageUsed {s : State} (h : s.phase = .idle) (a : Byte) :
    exec (.setPageUsed a) s = .next (answer true 0x00 (setPageUsedOp a s)) := next_accepted h

/-- Settles O21: the protection bit is cleared by `setBit`, whose effect on every bit is known, in byte 0 alone. -/
theorem setPageUsedClearsOneBit : Obligations.SetPageUsedClearsOneBit := by
  refine fun a s h => ⟨_, exec_setPageUsed h a, ?_, fun ha => ?_, fun ha => ?_⟩
  · rw [setPageUsedOp_eq]
    rfl
  · simp only [statusGet_answer, setPageUsedOp_valid ha, statusGet_statusSet s 0 _ _ (by decide : 0 < 8)]
    refine ⟨fun j hj => ?_, fun i hi => if_neg hi⟩
    rw [if_pos trivial, getLsbD_setBit _ _ _ hj]
    by_cases hja : j = a.toNat + 4 <;> simp [hja]
  · rw [setPageUsedOp_absent ha]
    rfl

/-- Settles O22: two valid pages write the source page's byte, which the block has (R10); otherwise the effect and the answer
fail by the same test. -/
theorem setPageRedirWritesOneByte : Obligations.SetPageRedirWritesOneByte := by
  refine fun a b s h hpages => ⟨fun ⟨ha, hb⟩ => ?_, fun hab => ?_⟩
  · refine ⟨_, exec_setPageRedir_valid h ha hb, rfl, fun i => ?_⟩
    rw [statusGet_answer, statusGet_statusSet s _ _ i (by omega)]
  · have hbad : redirectionOk a b s = false := Bool.eq_false_iff.mpr (mt (redirectionOk_iff a b s).mp hab)
    rw [exec, execSetPageRedir, next_accepted h, setPageRedirectionOp, hbad]
    rfl

/-- Settles O23: a valid page's byte is complemented, an absent page has none. -/
theorem getPageRedirComplements : Obligations.GetPageRedirComplements := by
  refine fun a s h => ⟨exec_getPageRedir_valid h, fun ha => ?_⟩
  rw [exec, execGetPageRedir, next_accepted h, getPageRedirectionOp, if_neg (not_validPage ha)]
  rfl

/-- Settles O24: the initial bytes are those of the reset state. -/
theorem clearStatusRestores : Obligations.ClearStatusRestores :=
  fun _ h => next_accepted h

/-- Settles O25: the index is tested against the last status byte. -/
theorem statusReadReturnsTheByte : Obligations.StatusReadReturnsTheByte := by
  refine ⟨fun _ _ => rfl, fun a s h => ⟨fun ha => ?_, fun ha => ?_⟩⟩
  · rw [exec, execStatusRead, next_accepted h, if_pos ha]
    rfl
  · rw [exec, execStatusRead, next_accepted h, if_neg (Nat.not_le.mpr ha)]
    rfl

/-- Settles O26: the result byte is the address cut to 8 bits. -/
theorem translateReportsTheAddress : Obligations.TranslateReportsTheAddress :=
  fun _ _ h => ⟨_, next_accepted h, BitVec.toNat_ofNat _ _⟩

/-! ### The fields an operation may write (R327, R88; R237, R238, R274, R281) -/

/-- `s` with the fields that an operation may write taken from `u`. `exec_writes` ties it to `exec`. -/
def withWritten (i : Instr) (u s : State) : State :=
  match i with
  | .skipRom =>
    { s with phase := u.phase, bt := u.bt, cnt := u.cnt, bit := u.bit, byte := u.byte, crc8 := u.crc8 }
  | .busOther _ =>
    { s with
      phase := u.phase, bt := u.bt, cnt := u.cnt, bit := u.bit, oe := u.oe, dispatched := u.dispatched,
      err := u.err, errCmd := u.errCmd }
  | .readMemory _ _ =>
    { s with
      phase := u.phase, bt := u.bt, cnt := u.cnt, bit := u.bit, oe := u.oe, dispatched := u.dispatched,
      byte := u.byte, dcmd := u.dcmd, ta1 := u.ta1, ta2 := u.ta2, crc8 := u.crc8 }
  | .devOther _ _ _ =>
    { s with
      phase := u.phase, bt := u.bt, cnt := u.cnt, bit := u.bit, oe := u.oe, dispatched := u.dispatched,
      dcmd := u.dcmd, ta1 := u.ta1, ta2 := u.ta2, crc8 := u.crc8 }
  | .poll =>
    { s with
      err := u.err, dispatched := u.dispatched, phase := u.phase, hi := u.hi, cnt := u.cnt, port := u.port }
  | .clearError => { s with err := u.err, port := u.port }
  | .attach | .detach => { s with attached := u.attached, port := u.port }
  | .setOd _ => { s with od := u.od, port := u.port }
  | .memWrite _ _ => { s with mem := u.mem, port := u.port }
  | .setPageUsed _ | .setPageRedir _ _ | .clearStatus => { s with status := u.status, port := u.port }
  | .nop | .memRead _ | .getPageRedir _ | .statusRead _ | .translate _ | .hostRsvd14 | .hostRsvd15 =>
    { s with port := u.port }

/-- Every host operation may write the answer. -/
theorem withWritten_answer {i : Instr} (hf : i.format = .host20) (s : State) (p : HostOut) :
    withWritten i { s with port := p } s = { s with port := p } := by
  cases i with
  | skipRom | busOther | readMemory | devOther => cases hf
  | nop | poll | clearError | attach | detach | setOd | memWrite | memRead | setPageUsed | setPageRedir | getPageRedir
  | clearStatus | statusRead | translate | hostRsvd14 | hostRsvd15 => rfl

/-- An operation that writes its own fields when it is accepted writes no others when it is turned away. -/
theorem writes_of_accepted {i : Instr} {s e t : State} (hf : i.format = .host20)
    (h : (.next (accepted s e) : Host.Outcome State Fault Refusal) = .next t) (he : e = withWritten i e s) :
    t = withWritten i t s := by
  obtain rfl := Host.Outcome.next.inj h
  by_cases hp : s.phase = .idle
  · rwa [accepted_of_idle hp]
  · rw [accepted_of_busy hp, withWritten_answer hf]

/-- An operation's next state differs from the state it runs in by the fields it may write. -/
theorem exec_writes {i : Instr} {s t : State} (h : exec i s = .next t) : t = withWritten i t s := by
  cases i with
  | skipRom | busOther | devOther =>
    obtain rfl := Host.Outcome.next.inj h
    rfl
  | readMemory =>
    obtain rfl := Host.Outcome.next.inj h
    split <;> rfl
  | nop | clearError | setOd | memRead | getPageRedir | clearStatus | translate | hostRsvd14 | hostRsvd15 =>
    exact writes_of_accepted rfl h rfl
  | poll | attach | detach | statusRead =>
    refine writes_of_accepted rfl h ?_
    split <;> rfl
  | memWrite =>
    refine writes_of_accepted rfl h ?_
    rw [memWrite_eq]
    rfl
  | setPageUsed =>
    refine writes_of_accepted rfl h ?_
    rw [setPageUsedOp_eq]
    rfl
  | setPageRedir =>
    refine writes_of_accepted rfl h ?_
    rw [setPageRedirectionOp_eq]
    rfl

section Fields

variable {i : Instr} (u s : State)

/-- No operation writes these. -/
theorem withWritten_kept : (withWritten i u s).cfg = s.cfg ∧ (withWritten i u s).inputs = s.inputs ∧
    (withWritten i u s).now = s.now ∧ (withWritten i u s).low = s.low ∧ (withWritten i u s).addr = s.addr := by
  cases i <;> exact ⟨rfl, rfl, rfl, rfl, rfl⟩

theorem withWritten_hi (h : i ≠ .poll) : (withWritten i u s).hi = s.hi := by
  cases i with
  | poll => exact absurd rfl h
  | _ => rfl

theorem withWritten_phase_cnt (h : i ≠ .poll) (hf : i.format = .host20) :
    (withWritten i u s).phase = s.phase ∧ (withWritten i u s).cnt = s.cnt := by
  cases i with
  | poll => exact absurd rfl h
  | skipRom | busOther | readMemory | devOther => cases hf
  | _ => exact ⟨rfl, rfl⟩

theorem withWritten_err (hpoll : i ≠ .poll) (hclear : i ≠ .clearError) (hbus : ∀ c, i ≠ .busOther c) :
    (withWritten i u s).err = s.err := by
  cases i with
  | poll => exact absurd rfl hpoll
  | clearError => exact absurd rfl hclear
  | busOther => exact absurd rfl (hbus _)
  | _ => rfl

theorem withWritten_dispatched (hpoll : i ≠ .poll) (hbus : ∀ c, i ≠ .busOther c) (hread : ∀ a b, i ≠ .readMemory a b)
    (hdev : ∀ c a b, i ≠ .devOther c a b) : (withWritten i u s).dispatched = s.dispatched := by
  cases i with
  | poll => exact absurd rfl hpoll
  | busOther => exact absurd rfl (hbus _)
  | readMemory => exact absurd rfl (hread _ _)
  | devOther => exact absurd rfl (hdev _ _ _)
  | _ => rfl

/-- The registers of the device command; SKIP_ROM clears the CRC for it (R237). -/
theorem withWritten_device (hread : ∀ a b, i ≠ .readMemory a b) (hdev : ∀ c a b, i ≠ .devOther c a b) :
    (withWritten i u s).dcmd = s.dcmd ∧ (withWritten i u s).ta1 = s.ta1 ∧ (withWritten i u s).ta2 = s.ta2 ∧
    (i ≠ .skipRom → (withWritten i u s).crc8 = s.crc8) := by
  cases i with
  | readMemory => exact absurd rfl (hread _ _)
  | devOther => exact absurd rfl (hdev _ _ _)
  | skipRom => exact ⟨rfl, rfl, rfl, fun h => absurd rfl h⟩
  | _ => exact ⟨rfl, rfl, rfl, fun _ => rfl⟩

theorem withWritten_byte (hskip : i ≠ .skipRom) (hread : ∀ a b, i ≠ .readMemory a b) :
    (withWritten i u s).byte = s.byte := by
  cases i with
  | skipRom => exact absurd rfl hskip
  | readMemory => exact absurd rfl (hread _ _)
  | _ => rfl

theorem withWritten_mem (h : ∀ a b, i ≠ .memWrite a b) : (withWritten i u s).mem = s.mem := by
  cases i with
  | memWrite => exact absurd rfl (h _ _)
  | _ => rfl

theorem withWritten_status (hclear : i ≠ .clearStatus) (hused : ∀ a, i ≠ .setPageUsed a)
    (hredir : ∀ a b, i ≠ .setPageRedir a b) : (withWritten i u s).status = s.status := by
  cases i with
  | clearStatus => exact absurd rfl hclear
  | setPageUsed => exact absurd rfl (hused _)
  | setPageRedir => exact absurd rfl (hredir _ _)
  | _ => rfl

theorem withWritten_attached (hattach : i ≠ .attach) (hdetach : i ≠ .detach) :
    (withWritten i u s).attached = s.attached := by
  cases i with
  | attach => exact absurd rfl hattach
  | detach => exact absurd rfl hdetach
  | _ => rfl

theorem withWritten_od (h : ∀ a, i ≠ .setOd a) : (withWritten i u s).od = s.od := by
  cases i with
  | setOd => exact absurd rfl (h _)
  | _ => rfl

theorem withWritten_errCmd (h : ∀ c, i ≠ .busOther c) : (withWritten i u s).errCmd = s.errCmd := by
  cases i with
  | busOther => exact absurd rfl (h _)
  | _ => rfl

/-- A host operation leaves the bit engine and the device alone. -/
theorem withWritten_line (hf : i.format = .host20) :
    (withWritten i u s).oe = s.oe ∧ (withWritten i u s).bt = s.bt ∧ (withWritten i u s).bit = s.bit ∧
    (withWritten i u s).byte = s.byte ∧ (withWritten i u s).dcmd = s.dcmd ∧ (withWritten i u s).ta1 = s.ta1 ∧
    (withWritten i u s).ta2 = s.ta2 ∧ (withWritten i u s).addr = s.addr ∧ (withWritten i u s).crc8 = s.crc8 := by
  cases i with
  | skipRom | busOther | readMemory | devOther => cases hf
  | _ => exact ⟨rfl, rfl, rfl, rfl, rfl, rfl, rfl, rfl, rfl⟩

/-- A line command leaves the host's answer alone. -/
theorem withWritten_port (hf : i.format ≠ .host20) : (withWritten i u s).port = s.port := by
  cases i with
  | skipRom | busOther | readMemory | devOther => rfl
  | _ => exact absurd rfl hf

end Fields

/-- Settles O30: an operation's next state is `s` with the fields it may write, and each clause names a field that is not one of
them; what a read of memory gives depends on the configuration and `mem` (R86). -/
theorem operationsWriteOnlyTheirs : Obligations.OperationsWriteOnlyTheirs := by
  intro i s t h
  obtain ⟨u, rfl⟩ : ∃ u, t = withWritten i u s := ⟨t, exec_writes h⟩
  obtain ⟨hcfg, hinputs, hnow, hlow, haddr⟩ := withWritten_kept (i := i) u s
  have hmem (hw : ∀ a b, i ≠ .memWrite a b) := withWritten_mem u s hw
  exact ⟨hcfg, hinputs, hnow, hlow, haddr, withWritten_hi u s, withWritten_phase_cnt u s, withWritten_err u s,
    withWritten_dispatched u s, withWritten_device u s, withWritten_byte u s,
    fun hw => ⟨hmem hw, memRead_congr hcfg (hmem hw)⟩, withWritten_status u s, withWritten_attached u s,
    withWritten_od u s, withWritten_errCmd u s, withWritten_line u s, withWritten_port u s⟩

end Sys2Proof.Machine
end

section
/-! SUPPORT. Proofs of the statements of spec/60_exceptions.md: the cause of each stored error (O53). -/

namespace Sys2Proof.Machine

/-! ### What a tick can do to the error register (R351, R360, R361) -/

/-- The ticks with the sample `x` that take an exception from `s`: each cause with the code that it stores and the abort sequence
that it ends in (R360, R362). -/
inductive Abort (x : Bool) (s : State) : State → Prop
  /-- Code 2 (R228). -/
  | pulseTooLong (u : State) (hp : s.phase = .confirmReset) (hx : x = false) (hl : s.cfg.profile.resetTimeout ≤ s.low + 1) :
      Abort x s (raise .veryLongReset u)
  /-- Code 3 (R234). -/
  | presenceHeldLow (u : State) (hp : s.phase = .presRelease) (hx : x = false) (h0 : (countDown s).cnt = 0) :
      Abort x s (raise .presenceLowOnLine u)
  /-- Codes 4 and 5 (R167). -/
  | slotNeverStarts (u : State) (hp : s.phase.isByte = true) (hb : s.bt = .waitFall) (hx : x = true)
      (h0 : (countDown s).cnt = 0) : Abort x s (raise (slotTimeoutError s) u)
  /-- Code 6 (R238). -/
  | otherCommand (u : State) (hp : s.phase = .rxCmd) (hbit : s.bit = 7) (hc : u.byte ≠ 0xCC) :
      Abort x s (raise .incorrectOnewireCmd { u with errCmd := u.byte })

theorem slotStart_err (s : State) : (slotStart s).err = s.err := by
  unfold slotStart
  split
  · split <;> rfl
  · rfl

/-- A host operation in `IDLE` can only clear the error (R361). -/
theorem IdleMove.err_cases {s t : State} (h : IdleMove s t) : t.err = s.err ∨ t.err = .noError := by
  cases h with
  | startsCycle | clearsError => exact .inr rfl
  | answers | setsAttached | setsSpeed | clearsStatus => exact .inl rfl
  | writesMemory i v => rw [memWrite_eq]; exact .inl rfl
  | marksPage a => rw [setPageUsedOp_eq]; exact .inl rfl
  | redirectsPage a b => rw [setPageRedirectionOp_eq]; exact .inl rfl

/-- Of the ends of a byte only a bus-layer command other than SKIP_ROM stores an error (R238). -/
theorem ByteEnd.err_cases {u t : State} (h : ByteEnd u t) : t.err = u.err ∨
    (u.phase = .rxCmd ∧ u.byte ≠ 0xCC ∧ t = raise .incorrectOnewireCmd { u with errCmd := u.byte }) := by
  cases h with
  | busOther hp hc => exact .inr ⟨hp, hc, rfl⟩
  | skipRom | command | firstAddress | readMemory | silent | commandCrc | commandCrcPastEnd | data | lastData | dataCrc =>
    exact .inl rfl

/-- A tick of a running cycle keeps the error or takes an exception. -/
theorem SequencerMove.err_cases {x : Bool} {s t : State} (h : SequencerMove x s t) : t.err = s.err ∨ Abort x s t := by
  cases h with
  | pulseTooLong hp hx hl => exact .inr (.pulseTooLong _ hp hx hl)
  | presenceHeldLow hp hx h0 => exact .inr (.presenceHeldLow _ hp hx h0)
  | slotNeverStarts hp hb hx h0 => exact .inr (.slotNeverStarts _ hp hb hx h0)
  | @byteEnds v u _ _ hu hbit hend =>
    have hend' := hend.err_cases
    rw [hu.storeBit_eq] at hend'
    obtain he | ⟨hp, hc, rfl⟩ := hend'
    · exact .inl he
    · exact .inr (.otherCommand _ hp hbit hc)
  | pulseStarts | settles | idleTimesOut | pulseTooShort | pulseValid | pulseGoesOn | waits | presenceStarts | presenceEnds
  | presenceReleased | lineHigh | becomesReset => exact .inl rfl
  | slotStarts => exact .inl (slotStart_err s)
  | nextSlot _ hu =>
    rw [hu.storeBit_eq]
    exact .inl rfl

/-- Settles O53: in `IDLE` an error is only cleared, and a running cycle that changes it takes one of the listed exceptions. -/
theorem errorsHaveOneCause : Obligations.ErrorsHaveOneCause := by
  intro s t h hr hne
  obtain ⟨hr', -⟩ | ⟨-, hp, hm⟩ | ⟨-, -, hm⟩ := step_moves h
  · simp [hr] at hr'
  · exact .inl ⟨hp, hm.err_cases.resolve_left hne⟩
  · right
    cases hm.err_cases.resolve_left hne with
    | pulseTooLong u hp hx hl => exact ⟨rfl, rfl, rfl, .inl ⟨rfl, hp, hx, hl⟩⟩
    | presenceHeldLow u hp hx h0 =>
      exact ⟨rfl, rfl, rfl, .inr (.inl ⟨rfl, hp, hx, fun hl => cnt_eq_one_of_countDown hl h0⟩)⟩
    | slotNeverStarts u hp hb hx h0 =>
      have hlast : counterLive s → s.cnt = 1 := fun hl => cnt_eq_one_of_countDown hl h0
      refine ⟨rfl, rfl, rfl, .inr (.inr ?_)⟩
      by_cases hbit : s.bit = 0
      · exact .inr (.inl ⟨if_pos hbit, hp, hb, hbit, hx, hlast⟩)
      · exact .inl ⟨if_neg hbit, hp, hb, hbit, hx, hlast⟩
    | otherCommand u hp hbit hc => exact ⟨rfl, rfl, rfl, .inr (.inr (.inr (.inr ⟨rfl, hp, hbit, rfl, hc⟩)))⟩

end Sys2Proof.Machine
end

section
/-! SUPPORT. Proof of a statement of spec/70_reset_and_hazards.md: what a tick in `IDLE` looks at (O33). -/

namespace Sys2Proof.Machine

/-- In `IDLE` a tick looks at `rst` and the host port alone, and at the operands only of a presented operation (R310, R396). -/
theorem tick_of_idle {s : State} {u v : TickIn} (x y : Bool) (hp : s.phase = .idle) (hr : u.rst = v.rst)
    (hv : u.hValid = v.hValid) (hop : u.hValid = true → u.hOp = v.hOp ∧ u.hA = v.hA ∧ u.hB = v.hB) :
    tick u x s = tick v y s := by
  rw [tick, tick, if_pos hp, if_pos hp, ← hr, ← hv]
  cases hvalid : u.hValid with
  | false => rfl
  | true =>
    obtain ⟨hcode, ha, hb⟩ := hop hvalid
    rw [hcode, ha, hb]

/-- Settles O33: the line sample enters a tick through the sequencer alone, which has no transition in `IDLE`. -/
theorem idleBlindToLine : Obligations.IdleBlindToLine := by
  intro s u v rest hp hr hv hop
  exact step_congr rfl (tick_of_idle _ _ hp hr hv hop)

end Sys2Proof.Machine
end
